-- ==== Sys2Proof/Word.lean ====
section
/-! DEFINITION. The word types of the block (00_scope.md R7, R8; 30_encoding.md R81): data bytes, addresses,
transaction words, and snapshot blobs. Bit 0 is the least significant bit (R8). -/

namespace Sys2Proof

/-- One byte of data on either bus (R7, R63). -/
abbrev Byte := BitVec 8

/-- The address field `A` of a transaction word (R81): a CPU address (R60) or a graphics address (R61). -/
abbrev Addr := BitVec 16

/-- A 32-bit transaction word (R81). -/
abbrev Word := BitVec 32

/-- A snapshot blob (R91, R251): a sequence of bytes, a value and never an alias (R78). -/
abbrev Blob := List Byte

end Sys2Proof
end

