-- ==== Sys2Proof/Config.lean ====
section
/-! DEFINITION. What construction fixes for an instance (00_scope.md R3, R7): the variant, the cartridge header and
the named parameters; and the one free value of the model, the open-bus byte, a constant without a body. -/

namespace Sys2Proof

/-- The three variants of the block (R3), fixed for the life of an instance. -/
inductive Variant where
  | swap
  | serial
  | scan
  deriving DecidableEq, Repr

/-- The header's mirroring flag (R7, D39). -/
inductive HeaderMirroring where
  | horizontal
  | vertical
  | fourScreen
  deriving DecidableEq, Repr

/-- The construction arguments that come from the cartridge header (R7). -/
structure Header where
  /-- PRG-ROM size in 16 KiB units (R7). -/
  prgBanks16 : Nat
  /-- CHR-ROM size in 8 KiB units; 0 means CHR-RAM (R7, R23). -/
  chrBanks8 : Nat
  /-- Recorded, without effect on any rule (R242, D6). -/
  hasBatteryRam : Bool
  mirroringFlag : HeaderMirroring
  deriving DecidableEq, Repr

/-- The named parameters of R7. The four last have the defaults R7 gives; `a12Filter` is OPEN and has none (log 11). -/
structure Params where
  /-- `A12_FILTER`, a natural number in 1..255 (R7, R221, D27). -/
  a12Filter : Nat
  /-- `SERIAL_RESET_FORCES_PRG_MODE3` (R163, D17). -/
  serialResetForcesPrgMode3 : Bool := false
  /-- `SCAN_IRQ_ON_RELOAD_ZERO` (R222, D26). -/
  scanIrqOnReloadZero : Bool := false
  /-- `SCAN_SEPARATE_CHR_MODE_BIT` (R192, D21). -/
  scanSeparateChrModeBit : Bool := false
  /-- `SCAN_RESET_BANKS` (R35, R295, D28). -/
  scanResetBanks : Vector Byte 8 := Vector.replicate 8 0#8
  deriving DecidableEq, Repr

/-- The byte a read returns when nothing drives the bus: a draw, fresh on every such read (R7, R12, D10). It has no
body: nothing can be proved of its value. The step applies it to the count of draws taken so far (log 4). -/
opaque Config.openBus : Nat → Byte

end Sys2Proof
end

