-- ==== Sys2Proof/Syntax.lean ====
section
/-! DEFINITION. The transactions of the block: one constructor of `Instr` per row of spec/opcode_table.json, in the
table's order, with the operands its rule names (30_encoding.md R82, R88); the reasons a word is refused (R86); and a
request, a transaction word with the blob carried beside it (R81, R91). -/

namespace Sys2Proof

/-- One host transaction or call. `a` is the address field `A`, `v` the data field `D`. -/
inductive Instr where
  -- rows of every variant
  | refusedCrUnrouted (a : Addr)
  | refusedCwUnrouted (a : Addr) (v : Byte)
  | crOpen (a : Addr)
  | cwOpen (a : Addr) (v : Byte)
  | crPrgRam (a : Addr)
  | cwPrgRam (a : Addr) (v : Byte)
  | crPrgRom (a : Addr)
  | prChr (a : Addr)
  | pwChr (a : Addr) (v : Byte)
  | tick (level : Bool)
  | reset
  | irqPending
  | irqAck
  | getMirroring
  | save
  | restore (blob : Blob)
  -- rows of SWAP
  | cwSwapBank (a : Addr) (v : Byte)
  -- rows of SERIAL
  | cwSerialReset (a : Addr) (v : Byte)
  | cwSerialCtrl (a : Addr) (v : Byte)
  | cwSerialChr0 (a : Addr) (v : Byte)
  | cwSerialChr1 (a : Addr) (v : Byte)
  | cwSerialPrg (a : Addr) (v : Byte)
  -- rows of SCAN
  | cwScanBankSelect (a : Addr) (v : Byte)
  | cwScanBankData (a : Addr) (v : Byte)
  | cwScanMirroring (a : Addr) (v : Byte)
  | cwScanPrgRamProtect (a : Addr) (v : Byte)
  | cwScanIrqLatch (a : Addr) (v : Byte)
  | cwScanIrqReload (a : Addr) (v : Byte)
  | cwScanIrqDisable (a : Addr) (v : Byte)
  | cwScanIrqEnable (a : Addr) (v : Byte)
  deriving DecidableEq, Repr

/-- The reasons of R86, in its order. -/
inductive WordRefusal where
  | reservedKind
  | reservedBits
  | unroutedCpuAddress
  | unroutedPpuAddress
  | nonzeroUnusedField
  deriving DecidableEq, Repr

/-- What the host hands the block for one transaction: the word, and the blob carried beside it, which only RESTORE
reads (R82, R91). -/
structure Request where
  word : Word
  blob : Blob := []
  deriving DecidableEq, Repr

end Sys2Proof
end

