-- ==== Sys2Proof/WellFormed.lean ====
section
/-! DEFINITION. Which instruction terms a transaction word can carry: the operand ranges of the operation rules
(R111 to R120, R142, R163 to R169, R195 to R202) and the variant the row belongs to (R84). -/

namespace Sys2Proof

/-- `a` lies in `lo..hi`. -/
def Addr.between (a : Addr) (lo hi : Nat) : Bool :=
  decide (lo ≤ a.toNat) && decide (a.toNat ≤ hi)

/-- The `variant` column of the instruction's row: `none` is `*` (R84). -/
def Instr.rowVariant : Instr → Option Variant
  | .refusedCrUnrouted _ => none
  | .refusedCwUnrouted _ _ => none
  | .crOpen _ => none
  | .cwOpen _ _ => none
  | .crPrgRam _ => none
  | .cwPrgRam _ _ => none
  | .crPrgRom _ => none
  | .prChr _ => none
  | .pwChr _ _ => none
  | .tick _ => none
  | .reset => none
  | .irqPending => none
  | .irqAck => none
  | .getMirroring => none
  | .save => none
  | .restore _ => none
  | .cwSwapBank _ _ => some .swap
  | .cwSerialReset _ _ => some .serial
  | .cwSerialCtrl _ _ => some .serial
  | .cwSerialChr0 _ _ => some .serial
  | .cwSerialChr1 _ _ => some .serial
  | .cwSerialPrg _ _ => some .serial
  | .cwScanBankSelect _ _ => some .scan
  | .cwScanBankData _ _ => some .scan
  | .cwScanMirroring _ _ => some .scan
  | .cwScanPrgRamProtect _ _ => some .scan
  | .cwScanIrqLatch _ _ => some .scan
  | .cwScanIrqReload _ _ => some .scan
  | .cwScanIrqDisable _ _ => some .scan
  | .cwScanIrqEnable _ _ => some .scan

/-- The operand ranges each rule gives under **Operands**. -/
def Instr.operandsOk : Instr → Bool
  | .refusedCrUnrouted a => a.between 0x4000 0x401F
  | .refusedCwUnrouted a _ => a.between 0x4000 0x401F
  | .crOpen a => a.between 0x4020 0x5FFF
  | .cwOpen a _ => a.between 0x4020 0x5FFF
  | .crPrgRam a => a.between 0x6000 0x7FFF
  | .cwPrgRam a _ => a.between 0x6000 0x7FFF
  | .crPrgRom a => a.between 0x8000 0xFFFF
  | .prChr a => a.between 0x0000 0x1FFF
  | .pwChr a _ => a.between 0x0000 0x1FFF
  | .tick _ => true
  | .reset => true
  | .irqPending => true
  | .irqAck => true
  | .getMirroring => true
  | .save => true
  | .restore _ => true
  | .cwSwapBank a _ => a.between 0x8000 0xFFFF
  | .cwSerialReset a v => a.between 0x8000 0xFFFF && v.getLsbD 7
  | .cwSerialCtrl a v => a.between 0x8000 0x9FFF && !v.getLsbD 7
  | .cwSerialChr0 a v => a.between 0xA000 0xBFFF && !v.getLsbD 7
  | .cwSerialChr1 a v => a.between 0xC000 0xDFFF && !v.getLsbD 7
  | .cwSerialPrg a v => a.between 0xE000 0xFFFF && !v.getLsbD 7
  | .cwScanBankSelect a _ => a.between 0x8000 0x9FFF && !a.getLsbD 0
  | .cwScanBankData a _ => a.between 0x8000 0x9FFF && a.getLsbD 0
  | .cwScanMirroring a _ => a.between 0xA000 0xBFFF && !a.getLsbD 0
  | .cwScanPrgRamProtect a _ => a.between 0xA000 0xBFFF && a.getLsbD 0
  | .cwScanIrqLatch a _ => a.between 0xC000 0xDFFF && !a.getLsbD 0
  | .cwScanIrqReload a _ => a.between 0xC000 0xDFFF && a.getLsbD 0
  | .cwScanIrqDisable a _ => a.between 0xE000 0xFFFF && !a.getLsbD 0
  | .cwScanIrqEnable a _ => a.between 0xE000 0xFFFF && a.getLsbD 0

/-- A row of variant `row` is a row of an instance of variant `v` when it is `*` or `v` (R84). -/
def rowFits (row : Option Variant) (v : Variant) : Bool :=
  match row with
  | none => true
  | some u => decide (u = v)

/-- The instruction terms that some transaction word of an instance of variant `v` carries. -/
def Instr.wellFormed (v : Variant) (i : Instr) : Bool :=
  rowFits i.rowVariant v && i.operandsOk

end Sys2Proof
end

