-- ==== Sys2Proof/Decode.lean ====
section
/-! DEFINITION. The decoder (30_encoding.md R81 to R86), total on every word and rejecting by name, the encoder
written from the same tables (R81, R82), and the host's view of one table word. -/

namespace Sys2Proof

/-! ### The fields of a transaction word (R81) -/

/-- Kind `K`, bits 31:28. -/
def kindOf (w : Word) : BitVec 4 := w.extractLsb' 28 4

/-- Reserved field `Z`, bits 27:24. -/
def zOf (w : Word) : BitVec 4 := w.extractLsb' 24 4

/-- Address `A`, bits 23:8. -/
def addrOf (w : Word) : Addr := w.extractLsb' 8 16

/-- Data `D`, bits 7:0. -/
def dataOf (w : Word) : Byte := w.extractLsb' 0 8

/-- The word with kind `k`, reserved field 0, address `a` and data `d` (R81). -/
def wordOf (k : BitVec 4) (a : Addr) (d : Byte) : Word := k ++ 0#4 ++ a ++ d

/-! ### The opcode table (R84) -/

/-- One row: the variant it belongs to (`none` is `*`), its mask and match, and the instruction it names. -/
structure Row where
  variant : Option Variant
  mask : Word
  pattern : Word
  build : Request → Instr

/-- The rows of both buses that every variant has. -/
def busRows : List Row := [
  ⟨none, 0xffffe0ff#32, 0x00400000#32, fun q => .refusedCrUnrouted (addrOf q.word)⟩,
  ⟨none, 0xffffe000#32, 0x10400000#32, fun q => .refusedCwUnrouted (addrOf q.word) (dataOf q.word)⟩,
  ⟨none, 0xffe000ff#32, 0x00400000#32, fun q => .crOpen (addrOf q.word)⟩,
  ⟨none, 0xffe00000#32, 0x10400000#32, fun q => .cwOpen (addrOf q.word) (dataOf q.word)⟩,
  ⟨none, 0xffe000ff#32, 0x00600000#32, fun q => .crPrgRam (addrOf q.word)⟩,
  ⟨none, 0xffe00000#32, 0x10600000#32, fun q => .cwPrgRam (addrOf q.word) (dataOf q.word)⟩,
  ⟨none, 0xff8000ff#32, 0x00800000#32, fun q => .crPrgRom (addrOf q.word)⟩,
  ⟨none, 0xffe000ff#32, 0x20000000#32, fun q => .prChr (addrOf q.word)⟩,
  ⟨none, 0xffe00000#32, 0x30000000#32, fun q => .pwChr (addrOf q.word) (dataOf q.word)⟩]

/-- The rows of the host calls. -/
def hostRows : List Row := [
  ⟨none, 0xfffffffe#32, 0x40000000#32, fun q => .tick ((dataOf q.word).getLsbD 0)⟩,
  ⟨none, 0xffffffff#32, 0x50000000#32, fun _ => .reset⟩,
  ⟨none, 0xffffffff#32, 0x60000000#32, fun _ => .irqPending⟩,
  ⟨none, 0xffffffff#32, 0x70000000#32, fun _ => .irqAck⟩,
  ⟨none, 0xffffffff#32, 0x80000000#32, fun _ => .getMirroring⟩,
  ⟨none, 0xffffffff#32, 0x90000000#32, fun _ => .save⟩,
  ⟨none, 0xffffffff#32, 0xa0000000#32, fun q => .restore q.blob⟩]

/-- The row of SWAP. -/
def swapRows : List Row := [
  ⟨some .swap, 0xff800000#32, 0x10800000#32, fun q => .cwSwapBank (addrOf q.word) (dataOf q.word)⟩]

/-- The rows of SERIAL. -/
def serialRows : List Row := [
  ⟨some .serial, 0xff800080#32, 0x10800080#32, fun q => .cwSerialReset (addrOf q.word) (dataOf q.word)⟩,
  ⟨some .serial, 0xffe00080#32, 0x10800000#32, fun q => .cwSerialCtrl (addrOf q.word) (dataOf q.word)⟩,
  ⟨some .serial, 0xffe00080#32, 0x10a00000#32, fun q => .cwSerialChr0 (addrOf q.word) (dataOf q.word)⟩,
  ⟨some .serial, 0xffe00080#32, 0x10c00000#32, fun q => .cwSerialChr1 (addrOf q.word) (dataOf q.word)⟩,
  ⟨some .serial, 0xffe00080#32, 0x10e00000#32, fun q => .cwSerialPrg (addrOf q.word) (dataOf q.word)⟩]

/-- The rows of SCAN. -/
def scanRows : List Row := [
  ⟨some .scan, 0xffe00100#32, 0x10800000#32, fun q => .cwScanBankSelect (addrOf q.word) (dataOf q.word)⟩,
  ⟨some .scan, 0xffe00100#32, 0x10800100#32, fun q => .cwScanBankData (addrOf q.word) (dataOf q.word)⟩,
  ⟨some .scan, 0xffe00100#32, 0x10a00000#32, fun q => .cwScanMirroring (addrOf q.word) (dataOf q.word)⟩,
  ⟨some .scan, 0xffe00100#32, 0x10a00100#32, fun q => .cwScanPrgRamProtect (addrOf q.word) (dataOf q.word)⟩,
  ⟨some .scan, 0xffe00100#32, 0x10c00000#32, fun q => .cwScanIrqLatch (addrOf q.word) (dataOf q.word)⟩,
  ⟨some .scan, 0xffe00100#32, 0x10c00100#32, fun q => .cwScanIrqReload (addrOf q.word) (dataOf q.word)⟩,
  ⟨some .scan, 0xffe00100#32, 0x10e00000#32, fun q => .cwScanIrqDisable (addrOf q.word) (dataOf q.word)⟩,
  ⟨some .scan, 0xffe00100#32, 0x10e00100#32, fun q => .cwScanIrqEnable (addrOf q.word) (dataOf q.word)⟩]

/-- spec/opcode_table.json, row by row in its order. -/
def opcodeTable : List Row := busRows ++ hostRows ++ swapRows ++ serialRows ++ scanRows

/-- The row decides `w` in an instance of variant `v`: its variant fits and `(w & mask) = match` (R84). -/
def Row.hits (r : Row) (v : Variant) (w : Word) : Bool :=
  rowFits r.variant v && decide (w &&& r.mask = r.pattern)

/-- Why a word that no row decodes is refused: the first condition of R86 that holds. -/
def refusalOf (w : Word) : WordRefusal :=
  if 11 ≤ (kindOf w).toNat then .reservedKind
  else if zOf w ≠ 0#4 then .reservedBits
  else if (kindOf w).toNat ≤ 1 ∧ (addrOf w).toNat < 0x4020 then .unroutedCpuAddress
  else if ((kindOf w).toNat = 2 ∨ (kindOf w).toNat = 3) ∧ 0x2000 ≤ (addrOf w).toNat then .unroutedPpuAddress
  else .nonzeroUnusedField

/-- The instruction a request names in an instance of variant `v`: the first row that hits decides; if none does,
the word is refused with R86's reason (R84, R86). -/
def decode (v : Variant) (q : Request) : Except WordRefusal Instr :=
  match opcodeTable.find? (fun r => r.hits v q.word) with
  | some r => .ok (r.build q)
  | none => .error (refusalOf q.word)

/-! ### The encoder (R82, R88, R89, R91) -/

/-- The data field of a TICK word: bit 0 is the A12 level (R82). -/
def levelByte (level : Bool) : Byte := if level then 1#8 else 0#8

/-- The request that carries an instruction. -/
def encode : Instr → Request
  | .refusedCrUnrouted a => { word := wordOf 0#4 a 0#8 }
  | .refusedCwUnrouted a v => { word := wordOf 1#4 a v }
  | .crOpen a => { word := wordOf 0#4 a 0#8 }
  | .cwOpen a v => { word := wordOf 1#4 a v }
  | .crPrgRam a => { word := wordOf 0#4 a 0#8 }
  | .cwPrgRam a v => { word := wordOf 1#4 a v }
  | .crPrgRom a => { word := wordOf 0#4 a 0#8 }
  | .prChr a => { word := wordOf 2#4 a 0#8 }
  | .pwChr a v => { word := wordOf 3#4 a v }
  | .tick level => { word := wordOf 4#4 0#16 (levelByte level) }
  | .reset => { word := wordOf 5#4 0#16 0#8 }
  | .irqPending => { word := wordOf 6#4 0#16 0#8 }
  | .irqAck => { word := wordOf 7#4 0#16 0#8 }
  | .getMirroring => { word := wordOf 8#4 0#16 0#8 }
  | .save => { word := wordOf 9#4 0#16 0#8 }
  | .restore blob => { word := wordOf 10#4 0#16 0#8, blob := blob }
  | .cwSwapBank a v => { word := wordOf 1#4 a v }
  | .cwSerialReset a v => { word := wordOf 1#4 a v }
  | .cwSerialCtrl a v => { word := wordOf 1#4 a v }
  | .cwSerialChr0 a v => { word := wordOf 1#4 a v }
  | .cwSerialChr1 a v => { word := wordOf 1#4 a v }
  | .cwSerialPrg a v => { word := wordOf 1#4 a v }
  | .cwScanBankSelect a v => { word := wordOf 1#4 a v }
  | .cwScanBankData a v => { word := wordOf 1#4 a v }
  | .cwScanMirroring a v => { word := wordOf 1#4 a v }
  | .cwScanPrgRamProtect a v => { word := wordOf 1#4 a v }
  | .cwScanIrqLatch a v => { word := wordOf 1#4 a v }
  | .cwScanIrqReload a v => { word := wordOf 1#4 a v }
  | .cwScanIrqDisable a v => { word := wordOf 1#4 a v }
  | .cwScanIrqEnable a v => { word := wordOf 1#4 a v }

/-! ### The host's view of one table word -/

/-- The variant in which a table word is read: the variant of `State.reset` (DESIGN CHOICE, log 9: the word alone
does not name its variant, R84). -/
def tableVariant : Variant := .scan

/-- The blob carried beside a RESTORE table word: the snapshot of the reset SCAN registers, vector V50 (DESIGN
CHOICE, log 8: the table gives the blob no bits). -/
def tableBlob : Blob :=
  [0x04, 0x00, 0x00, 0x00, 0x00, 0x00, 0x00, 0x00, 0x00, 0x00, 0x00, 0x80, 0x00, 0x00, 0x00, 0x00]

/-- The request whose word has the bits `w`; a RESTORE word carries `tableBlob`, any other no blob. -/
def Request.ofTableWord (w : Nat) : Request :=
  if w = 0xA0000000 then { word := BitVec.ofNat 32 w, blob := tableBlob } else { word := BitVec.ofNat 32 w }

/-- What the decoder reads from a word of at most 32 bits, in the variant of `State.reset`. -/
def decodeTableWord (nbits w : Nat) : Option Instr :=
  if nbits ≤ 32 ∧ w < 2 ^ 32 then
    match decode tableVariant (Request.ofTableWord w) with
    | .ok i => some i
    | .error _ => none
  else none

end Sys2Proof
end

