-- ==== Sys2Proof/Machine/State.lean ====
section
/-! DEFINITION. The state of one block instance (10_state.md R20 to R46) as plain data, with the host's side of the
transaction interface; the reasons a step can stop; and the state after reset. Registers are one alternative per
variant, since an instance holds the registers of its variant and nothing else (R21, R26). -/

namespace Sys2Proof.Machine

/-- A memory region's contents: (offset, byte) pairs in the canonical form of Machine/Memory.lean (log 2, log 3). -/
abbrev Memory := List Host.Cell

/-- The register of SWAP (R26, R27). -/
structure SwapRegs where
  prgBank : Byte
  deriving DecidableEq, Repr

/-- The registers of SERIAL (R28 to R33). -/
structure SerialRegs where
  shiftRegister : BitVec 5
  /-- 0..4 between transactions (R29, C11): an invariant, see Safety.lean. -/
  writeCount : Nat
  control : BitVec 5
  prg : BitVec 5
  chr0 : BitVec 5
  chr1 : BitVec 5
  deriving DecidableEq, Repr

/-- The registers of SCAN (R34 to R43). -/
structure ScanRegs where
  bankSelect : Byte
  /-- R0..R7 (R35). -/
  bankRegisters : Vector Byte 8
  /-- 0 = Vertical, 1 = Horizontal (R36). -/
  mirroring : BitVec 1
  prgRamProtect : Byte
  irqLatch : Byte
  irqCounter : Byte
  irqEnable : Bool
  irqReload : Bool
  irqPending : Bool
  /-- 0..`A12_FILTER` (R43): an invariant, see Safety.lean. -/
  a12LowRun : Nat
  deriving DecidableEq, Repr

/-- The registers of an instance; the alternative is the variant tag (R3, R21). -/
inductive Regs where
  | swap (r : SwapRegs)
  | serial (r : SerialRegs)
  | scan (r : ScanRegs)
  deriving DecidableEq, Repr

/-- What a transaction returns (R83): nothing, a byte, a bit, a 3-bit mirroring code (R250) or a blob. -/
inductive Result where
  | nothing
  | byte (b : Byte)
  | flag (b : Bool)
  | mirroring (code : BitVec 3)
  | blob (b : Blob)
  deriving DecidableEq, Repr

/-- One block instance and its host's pending transactions. -/
structure State where
  /-- The named parameters (R7); no transaction changes them (log 11). -/
  params : Params
  /-- The cartridge header (R7); no transaction changes it. -/
  header : Header
  /-- The registers of the variant. -/
  regs : Regs
  /-- `PRGROM` (R23, R24). -/
  prgRom : Memory
  /-- `PRGRAM` (R23, R24). -/
  prgRam : Memory
  /-- `CHR`: CHR-RAM when `header.chrBanks8 = 0`, else CHR-ROM (R23). -/
  chr : Memory
  /-- The transactions the host will issue, in its order (R20, R22; log 5). -/
  pending : List Request
  /-- The script position: how many transactions were issued (R22; log 6). -/
  pos : Nat
  /-- What the last transaction returned (R83; log 7). -/
  result : Result
  /-- How many open-bus draws were taken (R7, R12; log 4). -/
  draws : Nat
  deriving DecidableEq, Repr

/-- The construction errors of R270, the block's only errors. `create` raises them; no step does (R271). Safe: no
instance exists after one. -/
inductive Fault where
  /-- `mapperId ∉ {1, 2, 4}`; records the id (R240, R270). Raised by `create`. Safe. -/
  | unsupportedMapper (mapperId : Nat)
  /-- A check of R241 failed; records its number, 1..4 (R241, R270). Raised by `create`. Safe. -/
  | bankCountInconsistent (check : Nat)
  deriving DecidableEq, Repr

/-- Why a transaction has no step (R86, R273). Each leaves no next state, so it is safe. -/
inductive Refusal where
  /-- An instruction without a meaning; no arm of `exec` answers it in this model. Safe. -/
  | notModelled (mnemonic : String)
  /-- The word is outside the legal set (R86, R120, R121): raised by `step` for a word no row decodes and by the two
  REFUSED rows. Safe. -/
  | word (reason : WordRefusal)
  /-- RESTORE of a malformed or foreign blob (R252, R86). Raised by RESTORE. Safe. -/
  | badBlob
  /-- The host has issued no further transaction; the block never steps on its own (R20; log 5). Raised by `step`.
  Safe. -/
  | noTransaction
  /-- A meaning of one variant applied to another variant's instance, which no decoded word does (R84; log 10).
  Raised by the register writes. Safe. -/
  | wrongVariant
  deriving DecidableEq, Repr

/-- The instance right after reset: the SCAN registers at the values of R295 for a header of the spec's instance SC4
(`create(4, 4, 1, false, Vertical)`), `A12_FILTER = 1` as in the test vectors, the other parameters at R7's defaults,
no byte of a region listed and no transaction pending. The choice of the instance is a DESIGN CHOICE (log 1). -/
def State.reset : State where
  params := { a12Filter := 1 }
  header := { prgBanks16 := 4, chrBanks8 := 1, hasBatteryRam := false, mirroringFlag := .vertical }
  regs := .scan {
    bankSelect := 0x00
    bankRegisters := Vector.replicate 8 0#8
    mirroring := 0
    prgRamProtect := 0x80
    irqLatch := 0
    irqCounter := 0
    irqEnable := false
    irqReload := false
    irqPending := false
    a12LowRun := 0 }
  prgRom := []
  prgRam := []
  chr := []
  pending := []
  pos := 0
  result := .nothing
  draws := 0

end Sys2Proof.Machine
end

