-- ==== Sys2Proof/Machine/Memory.lean ====
section
/-! DEFINITION. A region's contents as a list of (offset, byte) pairs in one canonical form: offsets strictly rising,
and no entry equal to what an unlisted offset reads as. Every content of a region (10_state.md R24) is exactly one
such list, so equal contents are equal data. -/

namespace Sys2Proof.Machine

/-- What an offset that is not listed reads as. For ROM and for the RAM of an instance made by `create` this loses
nothing: the list holds every other byte of the image or of the draw. For the never-written RAM of `State.reset` it
is the value 0x00 (DESIGN CHOICE, log 3). -/
def Memory.unlisted : Byte := 0#8

/-- The byte at an offset. -/
def Memory.read : Memory → Nat → Byte
  | [], _ => Memory.unlisted
  | (k, b) :: m, o => if k = o then b else Memory.read m o

/-- The contents with the byte `v` at offset `o`, in canonical form: an entry equal to what an unlisted offset reads
as is removed. -/
def Memory.write : Memory → Nat → Byte → Memory
  | [], o, v => if v = Memory.unlisted then [] else [(o, v)]
  | (k, b) :: m, o, v =>
    if o < k then
      if v = Memory.unlisted then (k, b) :: m else (o, v) :: (k, b) :: m
    else if o = k then
      if v = Memory.unlisted then m else (o, v) :: m
    else (k, b) :: Memory.write m o v

/-- Every listed offset is below `n`. -/
def Memory.below (m : Memory) (n : Nat) : Bool := m.all fun c => decide (c.1 < n)

/-- The first listed offset, if there is one, is above `k`. -/
def Memory.startsAbove : Memory → Nat → Bool
  | [], _ => true
  | (k', _) :: _, k => decide (k < k')

/-- The canonical form. -/
def Memory.wf : Memory → Bool
  | [] => true
  | (k, b) :: m => decide (b ≠ Memory.unlisted) && Memory.startsAbove m k && Memory.wf m

/-- The contents that hold the bytes of `image` from offset `o` on. -/
def Memory.ofBytesFrom : Nat → List Byte → Memory
  | _, [] => []
  | o, b :: image =>
    if b = Memory.unlisted then Memory.ofBytesFrom (o + 1) image else (o, b) :: Memory.ofBytesFrom (o + 1) image

/-- The contents of a region that holds the image (R24, R242). -/
def Memory.ofBytes (image : List Byte) : Memory := Memory.ofBytesFrom 0 image

/-- The contents of a RAM region of `n` bytes that holds the draw `f` (R24, R242). -/
def Memory.ofDraw (n : Nat) (f : Nat → Byte) : Memory := Memory.ofBytes ((List.range n).map f)

end Sys2Proof.Machine
end

