-- ==== Sys2Proof/Machine/Ops.lean ====
section
/-! DEFINITION. The named operations every meaning is written over: sizes, memory regions (10_state.md R23,
00_scope.md R11), the bank window (40_bank_window.md R100 to R104), results and draws (R12, R83), the registers'
reset values (R290, R293 to R295) and the host's next transaction (R22). -/

namespace Sys2Proof.Machine

/-! ### Sizes (R14, R23) -/

def size1K : Nat := 1024
def size2K : Nat := 2048
def size4K : Nat := 4096
def size8K : Nat := 8192
def size16K : Nat := 16384
def size32K : Nat := 32768

/-- `PRG_RAM_SIZE` (R7, D6). -/
def prgRamSize : Nat := 8192

/-- `CHR_RAM_SIZE` (R7, D7). -/
def chrRamSize : Nat := 8192

/-- The size of `PRGROM` (R23). -/
def prgRomSize (h : Header) : Nat := h.prgBanks16 * size16K

/-- The size of `CHR`: CHR-RAM when the header declares no CHR bank, else CHR-ROM (R23). -/
def chrSize (h : Header) : Nat := if h.chrBanks8 = 0 then chrRamSize else h.chrBanks8 * size8K

/-! ### Memory regions (R11, R23) -/

/-- The regions an instance owns (R23). -/
inductive Region where
  | prgRom
  | prgRam
  | chr
  deriving DecidableEq, Repr

/-- `len(R)` (R23). -/
def regionLen (s : State) : Region → Nat
  | .prgRom => prgRomSize s.header
  | .prgRam => prgRamSize
  | .chr => chrSize s.header

/-- The `writable` column of R23. -/
def regionWritable (s : State) : Region → Bool
  | .prgRom => false
  | .prgRam => true
  | .chr => decide (s.header.chrBanks8 = 0)

/-- The contents of a region. -/
def regionContents (s : State) : Region → Memory
  | .prgRom => s.prgRom
  | .prgRam => s.prgRam
  | .chr => s.chr

/-- The state with a region's contents replaced. -/
def setRegion (s : State) (R : Region) (m : Memory) : State :=
  match R with
  | .prgRom => { s with prgRom := m }
  | .prgRam => { s with prgRam := m }
  | .chr => { s with chr := m }

/-- `RegionRead(R, off)` (R11). -/
def regionRead (s : State) (R : Region) (off : Nat) : Byte := Memory.read (regionContents s R) off

/-- `RegionWrite(R, off, v)`: nothing happens when the region is read-only (R11, R104). -/
def regionWrite (s : State) (R : Region) (off : Nat) (v : Byte) : State :=
  if regionWritable s R then setRegion s R (Memory.write (regionContents s R) off v) else s

/-! ### The bank window (R13, R100 to R104) -/

/-- `Win(base, size, R, b)` (R13). -/
structure Win where
  base : Nat
  size : Nat
  region : Region
  bank : Int
  deriving DecidableEq, Repr

/-- The window covers the address (R13). -/
def Win.covers (w : Win) (a : Nat) : Bool := decide (w.base ≤ a) && decide (a < w.base + w.size)

/-- `resolveBank(b, n)` (R100, C1): a negative number counts from the last bank, then the Euclidean remainder. -/
def resolveBank (b : Int) (n : Nat) : Nat :=
  let t : Int := if b < 0 then (n : Int) + b else b
  (t % (n : Int)).toNat

/-- `nb(R, size)` for a region of length `len` (R101, D8). -/
def bankCount (len size : Nat) : Nat := if size ≤ len then len / size else 1

/-- `offsetOf(Win(base, size, R, b), a)` for a region of length `len` (R102). -/
def windowOffset (base size len : Nat) (b : Int) (a : Nat) : Nat :=
  (resolveBank b (bankCount len size) * size + (a - base)) % len

/-- `offsetOf(W, a)` in a state (R102). -/
def offsetOf (s : State) (w : Win) (a : Nat) : Nat :=
  windowOffset w.base w.size (regionLen s w.region) w.bank a

/-- `winRead(W, a)` (R103). -/
def winRead (s : State) (w : Win) (a : Nat) : Byte := regionRead s w.region (offsetOf s w a)

/-- `winWrite(W, a, v)`: silently ignored when the region is read-only (R104). -/
def winWrite (s : State) (w : Win) (a : Nat) (v : Byte) : State := regionWrite s w.region (offsetOf s w a) v

/-- The window no address falls to; `winAt` answers it only for an address that no window of the layout covers. -/
def Win.unmapped : Win := { base := 0, size := 0, region := .prgRom, bank := 0 }

/-- The window of a layout that covers the address (R106). -/
def winAt (layout : List Win) (a : Nat) : Win := (layout.find? (fun w => w.covers a)).getD Win.unmapped

/-! ### Results and draws (R12, R83) -/

/-- The state after a transaction that returns `r`. -/
def returning (s : State) (r : Result) : State := { s with result := r }

/-- `return draw openBus`: the free value for the next draw, which is used up (R12, R111; log 4). -/
def returningOpenBus (s : State) : State :=
  { s with result := .byte (Config.openBus s.draws), draws := s.draws + 1 }

/-! ### Registers -/

/-- The variant tag (R21). -/
def Regs.variant : Regs → Variant
  | .swap _ => .swap
  | .serial _ => .serial
  | .scan _ => .scan

/-- The variant of the instance (R3, R21). -/
def State.variant (s : State) : Variant := Regs.variant s.regs

/-- The state after a transaction that leaves the registers at `g` and returns nothing. -/
def setRegs (s : State) (g : Regs) : State := { s with regs := g, result := .nothing }

/-- A register write of a SWAP instance; it returns nothing. -/
def updateSwap (s : State) (f : SwapRegs → SwapRegs) : Host.Outcome State Fault Refusal :=
  match s.regs with
  | .swap r => .next (setRegs s (.swap (f r)))
  | .serial _ => .refused .wrongVariant
  | .scan _ => .refused .wrongVariant

/-- A register write of a SERIAL instance; it returns nothing. -/
def updateSerial (s : State) (f : SerialRegs → SerialRegs) : Host.Outcome State Fault Refusal :=
  match s.regs with
  | .swap _ => .refused .wrongVariant
  | .serial r => .next (setRegs s (.serial (f r)))
  | .scan _ => .refused .wrongVariant

/-- A register write of a SCAN instance; it returns nothing. -/
def updateScan (s : State) (f : ScanRegs → ScanRegs) : Host.Outcome State Fault Refusal :=
  match s.regs with
  | .swap _ => .refused .wrongVariant
  | .serial _ => .refused .wrongVariant
  | .scan r => .next (setRegs s (.scan (f r)))

/-! ### Reset values (R290, R293 to R295) -/

/-- SWAP after reset (R27, R293). -/
def resetSwapRegs : SwapRegs := { prgBank := 0 }

/-- SERIAL after reset (R28 to R33, R294). -/
def resetSerialRegs : SerialRegs :=
  { shiftRegister := 0, writeCount := 0, control := 0x0C, prg := 0, chr0 := 0, chr1 := 0 }

/-- The reset value of SCAN's `mirroring` (R36). -/
def resetMirroring (h : Header) : BitVec 1 :=
  match h.mirroringFlag with
  | .horizontal => 1
  | .vertical => 0
  | .fourScreen => 0

/-- SCAN after reset (R34 to R43, R295). -/
def resetScanRegs (p : Params) (h : Header) : ScanRegs :=
  { bankSelect := 0, bankRegisters := p.scanResetBanks, mirroring := resetMirroring h, prgRamProtect := 0x80,
    irqLatch := 0, irqCounter := 0, irqEnable := false, irqReload := false, irqPending := false, a12LowRun := 0 }

/-- Every register of a variant at its reset value (R290). -/
def resetRegs (p : Params) (h : Header) : Variant → Regs
  | .swap => .swap resetSwapRegs
  | .serial => .serial resetSerialRegs
  | .scan => .scan (resetScanRegs p h)

/-! ### The host's next transaction (R20, R22) -/

/-- The state in which the transaction at the head of `pending` has been issued and `rest` is still to come: the
script position has advanced by one (R22). -/
def issued (s : State) (rest : List Request) : State := { s with pending := rest, pos := s.pos + 1 }

end Sys2Proof.Machine
end

