-- ==== Sys2Proof/Machine/Operands.lean ====
section
/-! DEFINITION. The fields of the registers and of the write operands: which bits a bank number, a mode, a gate or a
target is read from (10_state.md R30 to R37; 30_encoding.md R85, R88). -/

namespace Sys2Proof.Machine

/-! ### SERIAL (R30, R31, R165) -/

/-- `M = control[1:0]`, mirroring (R30). -/
def serialM (r : SerialRegs) : BitVec 2 := r.control.extractLsb' 0 2

/-- `P = control[3:2]`, PRG mode (R30). -/
def serialP (r : SerialRegs) : BitVec 2 := r.control.extractLsb' 2 2

/-- `C = control[4]`, CHR mode (R30). -/
def serialC (r : SerialRegs) : Bool := r.control.getLsbD 4

/-- `p = prg[3:0]`, the 16K PRG bank number (R31, R160). -/
def serialBank (r : SerialRegs) : BitVec 4 := r.prg.extractLsb' 0 4

/-- The four registers a serial commit can load (R165). -/
inductive SerialTarget where
  | control
  | chr0
  | chr1
  | prg
  deriving DecidableEq, Repr

/-- `target(a)`, by `a[14:13]` (R165). -/
def serialTarget (a : Addr) : SerialTarget :=
  match (a.extractLsb' 13 2).toNat with
  | 0 => .control
  | 1 => .chr0
  | 2 => .chr1
  | _ => .prg

/-- The bit a contributing write carries, `v[0]` (R88, R164). -/
def serialBitOf (v : Byte) : BitVec 1 := v.extractLsb' 0 1

/-! ### SCAN (R34 to R37) -/

/-- `T = bankSelect[2:0]`, the bank register that the next bank-data write loads (R34). -/
def scanTarget (r : ScanRegs) : Fin 8 := (r.bankSelect.extractLsb' 0 3).toFin

/-- `PM = bankSelect[6]` (R34, R191). -/
def scanPM (r : ScanRegs) : Bool := r.bankSelect.getLsbD 6

/-- `CM`: `bankSelect[7]` if `SCAN_SEPARATE_CHR_MODE_BIT`, else `bankSelect[6]` (R34, R192, C6). -/
def scanCM (p : Params) (r : ScanRegs) : Bool :=
  if p.scanSeparateChrModeBit then r.bankSelect.getLsbD 7 else r.bankSelect.getLsbD 6

/-- `Rk` as a bank number (R35, R191). -/
def scanBank (r : ScanRegs) (k : Fin 8) : Nat := r.bankRegisters[k].toNat

/-- `EN = prgRamProtect[7]` (R37). -/
def scanEN (r : ScanRegs) : Bool := r.prgRamProtect.getLsbD 7

/-- `WP = prgRamProtect[6]` (R37). -/
def scanWP (r : ScanRegs) : Bool := r.prgRamProtect.getLsbD 6

/-- The mirroring bit a write carries, `v[0]` (R88, R197). -/
def mirroringBitOf (v : Byte) : BitVec 1 := v.extractLsb' 0 1

end Sys2Proof.Machine
end

