-- ==== Sys2Proof/Machine/Flags.lean ====
section
/-! DEFINITION. The flags of SCAN (10_state.md R45) and the one event that raises the interrupt: the edge filter and
the counter clock (43_counter_irq.md R220 to R223), and the IRQ level (60_exceptions.md R274). The block takes no
exception itself (R278): raising `irqPending` is its whole part. -/

namespace Sys2Proof.Machine

/-- A counter clock reloads when the counter is 0 or a reload was requested (R222). -/
def clockReloads (r : ScanRegs) : Bool := decide (r.irqCounter = 0#8) || r.irqReload

/-- The reload-or-decrement half of the counter clock, made first (R222, R304). -/
def clockCount (r : ScanRegs) : ScanRegs :=
  if clockReloads r then { r with irqCounter := r.irqLatch, irqReload := false }
  else { r with irqCounter := r.irqCounter - 1#8 }

/-- `clockCounter(s)` (R222): count, then raise the pending flag if the counter is 0 and the IRQ is enabled, after a
reload only with `SCAN_IRQ_ON_RELOAD_ZERO`. Raising is a level (R223). -/
def clockCounter (p : Params) (r : ScanRegs) : ScanRegs :=
  let counted := clockCount r
  if decide (counted.irqCounter = 0#8) && counted.irqEnable && (!clockReloads r || p.scanIrqOnReloadZero) then
    { counted with irqPending := true }
  else counted

/-- The tick is a qualifying transition: level 1 after at least `A12_FILTER` low ticks (R220, R221). -/
def qualifies (p : Params) (level : Bool) (r : ScanRegs) : Bool := level && decide (p.a12Filter ≤ r.a12LowRun)

/-- `tickScan(s, L)` (R220). -/
def tickScan (p : Params) (level : Bool) (r : ScanRegs) : ScanRegs :=
  let clocked := if qualifies p level r then clockCounter p r else r
  { clocked with a12LowRun := if level then 0 else min (clocked.a12LowRun + 1) p.a12Filter }

/-- The `irq` output: the pending flag of SCAN, constantly 0 in SWAP and SERIAL (R274). -/
def irqLevel (s : State) : Bool :=
  match s.regs with
  | .swap _ => false
  | .serial _ => false
  | .scan r => r.irqPending

end Sys2Proof.Machine
end

