-- ==== Sys2Proof/Machine/Layout.lean ====
section
/-! DEFINITION. The derived state (10_state.md R44): each variant's window layouts (R140, R141, R160, R161, R191,
R192), the PRG-RAM gates (R119) and the mirroring mode (R143, R162, R193, R250). -/

namespace Sys2Proof.Machine

/-! ### SWAP (R140, R141) -/

def swapPrgLayout (r : SwapRegs) : List Win :=
  [ { base := 0x8000, size := size16K, region := .prgRom, bank := r.prgBank.toNat },
    { base := 0xC000, size := size16K, region := .prgRom, bank := -1 } ]

def swapChrLayout : List Win := [ { base := 0x0000, size := size8K, region := .chr, bank := 0 } ]

/-! ### SERIAL (R160, R161) -/

def serialPrgLayout (r : SerialRegs) : List Win :=
  match (serialP r).toNat with
  | 2 =>
    [ { base := 0x8000, size := size16K, region := .prgRom, bank := 0 },
      { base := 0xC000, size := size16K, region := .prgRom, bank := (serialBank r).toNat } ]
  | 3 =>
    [ { base := 0x8000, size := size16K, region := .prgRom, bank := (serialBank r).toNat },
      { base := 0xC000, size := size16K, region := .prgRom, bank := -1 } ]
  | _ => [ { base := 0x8000, size := size32K, region := .prgRom, bank := ((serialBank r).toNat / 2 : Nat) } ]

def serialChrLayout (r : SerialRegs) : List Win :=
  if serialC r then
    [ { base := 0x0000, size := size4K, region := .chr, bank := r.chr0.toNat },
      { base := 0x1000, size := size4K, region := .chr, bank := r.chr1.toNat } ]
  else [ { base := 0x0000, size := size8K, region := .chr, bank := (r.chr0.toNat / 2 : Nat) } ]

/-! ### SCAN (R191, R192) -/

def scanPrgLayout (r : ScanRegs) : List Win :=
  [ { base := 0x8000, size := size8K, region := .prgRom, bank := if scanPM r then -2 else (scanBank r 6 : Int) },
    { base := 0xA000, size := size8K, region := .prgRom, bank := scanBank r 7 },
    { base := 0xC000, size := size8K, region := .prgRom, bank := if scanPM r then (scanBank r 6 : Int) else -2 },
    { base := 0xE000, size := size8K, region := .prgRom, bank := -1 } ]

/-- The two 2K windows on R0 and R1, whose bit 0 is ignored, at graphics addresses `base` on (R35, R192). -/
def scanChr2K (r : ScanRegs) (base : Nat) : List Win :=
  [ { base := base, size := size2K, region := .chr, bank := (scanBank r 0 / 2 : Nat) },
    { base := base + 0x0800, size := size2K, region := .chr, bank := (scanBank r 1 / 2 : Nat) } ]

/-- The four 1K windows on R2..R5 at graphics addresses `base` on (R35, R192). -/
def scanChr1K (r : ScanRegs) (base : Nat) : List Win :=
  [ { base := base, size := size1K, region := .chr, bank := scanBank r 2 },
    { base := base + 0x0400, size := size1K, region := .chr, bank := scanBank r 3 },
    { base := base + 0x0800, size := size1K, region := .chr, bank := scanBank r 4 },
    { base := base + 0x0C00, size := size1K, region := .chr, bank := scanBank r 5 } ]

def scanChrLayout (p : Params) (r : ScanRegs) : List Win :=
  if scanCM p r then scanChr1K r 0x0000 ++ scanChr2K r 0x1000 else scanChr2K r 0x0000 ++ scanChr1K r 0x1000

/-! ### The layouts of an instance (R105, R106) -/

/-- The PRG layout, which covers 0x8000..0xFFFF (R105). -/
def prgLayout (s : State) : List Win :=
  match s.regs with
  | .swap r => swapPrgLayout r
  | .serial r => serialPrgLayout r
  | .scan r => scanPrgLayout r

/-- The CHR layout, which covers 0x0000..0x1FFF (R105). -/
def chrLayout (s : State) : List Win :=
  match s.regs with
  | .swap _ => swapChrLayout
  | .serial r => serialChrLayout r
  | .scan r => scanChrLayout s.params r

/-- `prgWin(s, a)` (R106). -/
def prgWin (s : State) (a : Nat) : Win := winAt (prgLayout s) a

/-- `chrWin(s, a)` (R106). -/
def chrWin (s : State) (a : Nat) : Win := winAt (chrLayout s) a

/-- The PRG-RAM window, the same in every variant (R114, R115). -/
def prgRamWin : Win := { base := 0x6000, size := size8K, region := .prgRam, bank := 0 }

/-! ### The PRG-RAM gates (R119) -/

def prgRamReadable (s : State) : Bool :=
  match s.regs with
  | .swap _ => true
  | .serial _ => true
  | .scan r => scanEN r

def prgRamWritable (s : State) : Bool :=
  match s.regs with
  | .swap _ => true
  | .serial _ => true
  | .scan r => scanEN r && !scanWP r

/-! ### Mirroring (R143, R162, R193, R250) -/

/-- The mirroring modes, in the order of their codes (R250). -/
inductive MirroringMode where
  | horizontal
  | vertical
  | singleScreenA
  | singleScreenB
  | fourScreen
  deriving DecidableEq, Repr

/-- The 3-bit code of a mode (R250, D32). -/
def mirroringCode : MirroringMode → BitVec 3
  | .horizontal => 0
  | .vertical => 1
  | .singleScreenA => 2
  | .singleScreenB => 3
  | .fourScreen => 4

/-- SWAP: the header's mode (R143). -/
def headerMode (h : Header) : MirroringMode :=
  match h.mirroringFlag with
  | .horizontal => .horizontal
  | .vertical => .vertical
  | .fourScreen => .fourScreen

/-- SERIAL: by `control[1:0]` (R162). -/
def serialMode (r : SerialRegs) : MirroringMode :=
  match (serialM r).toNat with
  | 0 => .singleScreenA
  | 1 => .singleScreenB
  | 2 => .vertical
  | _ => .horizontal

/-- SCAN: the `mirroring` bit, unless the header says FourScreen (R193). -/
def scanMode (h : Header) (r : ScanRegs) : MirroringMode :=
  match h.mirroringFlag with
  | .fourScreen => .fourScreen
  | .horizontal => if r.mirroring = 0#1 then .vertical else .horizontal
  | .vertical => if r.mirroring = 0#1 then .vertical else .horizontal

/-- `getMirroringMode()` (R249). -/
def mirroringMode (s : State) : MirroringMode :=
  match s.regs with
  | .swap _ => headerMode s.header
  | .serial r => serialMode r
  | .scan r => scanMode s.header r

end Sys2Proof.Machine
end

