-- ==== Sys2Proof/Machine/Bus.lean ====
section
/-! DEFINITION. The bus operations that behave the same in every variant (40_bank_window.md R110 to R121), one
meaning per row. Reads change no register, no window and no region byte (20_memory.md R66). -/

namespace Sys2Proof.Machine

/-- `REFUSED.CR_UNROUTED`: 0x4000..0x401F is not routed to the block (R120). -/
def execRefusedCrUnrouted (_a : Addr) (_s : State) : Host.Outcome State Fault Refusal :=
  .refused (.word .unroutedCpuAddress)

/-- `REFUSED.CW_UNROUTED`: 0x4000..0x401F is not routed to the block (R120). -/
def execRefusedCwUnrouted (_a : Addr) (_v : Byte) (_s : State) : Host.Outcome State Fault Refusal :=
  .refused (.word .unroutedCpuAddress)

/-- `CR.OPEN` (R111): returns a draw. -/
def execCrOpen (_a : Addr) (s : State) : Host.Outcome State Fault Refusal := .next (returningOpenBus s)

/-- `CW.OPEN` (R113): nothing. -/
def execCwOpen (_a : Addr) (_v : Byte) (s : State) : Host.Outcome State Fault Refusal :=
  .next (returning s .nothing)

/-- `CR.PRGRAM` (R114): a PRG-RAM byte, or a draw while PRG-RAM is not readable (R119). -/
def execCrPrgRam (a : Addr) (s : State) : Host.Outcome State Fault Refusal :=
  if prgRamReadable s then .next (returning s (.byte (winRead s prgRamWin a.toNat)))
  else .next (returningOpenBus s)

/-- `CW.PRGRAM` (R115): stores, or does nothing while PRG-RAM is not writable (R119). -/
def execCwPrgRam (a : Addr) (v : Byte) (s : State) : Host.Outcome State Fault Refusal :=
  if prgRamWritable s then .next (returning (winWrite s prgRamWin a.toNat v) .nothing)
  else .next (returning s .nothing)

/-- `CR.PRGROM` (R117): a byte through the PRG window that covers the address. -/
def execCrPrgRom (a : Addr) (s : State) : Host.Outcome State Fault Refusal :=
  .next (returning s (.byte (winRead s (prgWin s a.toNat) a.toNat)))

/-- `PR.CHR` (R116): a byte through the CHR window that covers the address. -/
def execPrChr (a : Addr) (s : State) : Host.Outcome State Fault Refusal :=
  .next (returning s (.byte (winRead s (chrWin s a.toNat) a.toNat)))

/-- `PW.CHR` (R118): stores on CHR-RAM, does nothing on CHR-ROM. -/
def execPwChr (a : Addr) (v : Byte) (s : State) : Host.Outcome State Fault Refusal :=
  .next (returning (winWrite s (chrWin s a.toNat) a.toNat v) .nothing)

end Sys2Proof.Machine
end

