-- ==== Sys2Proof/Machine/Snapshot.lean ====
section
/-! DEFINITION. The snapshot blob: its byte layout (44_host_calls.md R251) and the check and load of a blob (R252). -/

namespace Sys2Proof.Machine

/-- The first byte of a blob: the variant's tag (R251). -/
def variantTag : Variant → Byte
  | .swap => 0x02
  | .serial => 0x01
  | .scan => 0x04

/-- `flags`: bit 0 `irqEnable`, bit 1 `irqReload`, bit 2 `irqPending` (R251). -/
def flagsByte (r : ScanRegs) : Byte :=
  0#5 ++ BitVec.ofBool r.irqPending ++ BitVec.ofBool r.irqReload ++ BitVec.ofBool r.irqEnable

/-- `blob(s)` (R251): registers only, no region content (D30). -/
def blobOf : Regs → Blob
  | .swap r => [variantTag .swap, r.prgBank]
  | .serial r =>
    [variantTag .serial, r.shiftRegister.setWidth 8, BitVec.ofNat 8 r.writeCount, r.control.setWidth 8,
      r.prg.setWidth 8, r.chr0.setWidth 8, r.chr1.setWidth 8]
  | .scan r =>
    [variantTag .scan, r.bankSelect,
      r.bankRegisters[0], r.bankRegisters[1], r.bankRegisters[2], r.bankRegisters[3],
      r.bankRegisters[4], r.bankRegisters[5], r.bankRegisters[6], r.bankRegisters[7],
      r.mirroring.setWidth 8, r.prgRamProtect, r.irqLatch, r.irqCounter, flagsByte r, BitVec.ofNat 8 r.a12LowRun]

/-- Byte `i` of a blob; a blob that passes `blobWellFormed` has every byte that `regsOfBlob` reads. -/
def blobByte (b : Blob) (i : Nat) : Byte := b.getD i 0#8

/-- `wellFormed(b, variant)` (R252): the tag, the length 2, 7 or 16, and every field within its width and range. -/
def blobWellFormed (p : Params) (v : Variant) (b : Blob) : Bool :=
  match v with
  | .swap => decide (b.length = 2) && decide (blobByte b 0 = variantTag .swap)
  | .serial =>
    decide (b.length = 7) && decide (blobByte b 0 = variantTag .serial)
      && decide ((blobByte b 1).toNat < 32) && decide ((blobByte b 2).toNat ≤ 4)
      && decide ((blobByte b 3).toNat < 32) && decide ((blobByte b 4).toNat < 32)
      && decide ((blobByte b 5).toNat < 32) && decide ((blobByte b 6).toNat < 32)
  | .scan =>
    decide (b.length = 16) && decide (blobByte b 0 = variantTag .scan)
      && decide ((blobByte b 10).toNat ≤ 1) && decide ((blobByte b 14).extractLsb' 3 5 = 0#5)
      && decide ((blobByte b 15).toNat ≤ p.a12Filter)

/-- Every register of the variant at the value the blob holds for it (R252). -/
def regsOfBlob (v : Variant) (b : Blob) : Regs :=
  match v with
  | .swap => .swap { prgBank := blobByte b 1 }
  | .serial => .serial {
      shiftRegister := (blobByte b 1).setWidth 5
      writeCount := (blobByte b 2).toNat
      control := (blobByte b 3).setWidth 5
      prg := (blobByte b 4).setWidth 5
      chr0 := (blobByte b 5).setWidth 5
      chr1 := (blobByte b 6).setWidth 5 }
  | .scan => .scan {
      bankSelect := blobByte b 1
      bankRegisters := #v[blobByte b 2, blobByte b 3, blobByte b 4, blobByte b 5,
        blobByte b 6, blobByte b 7, blobByte b 8, blobByte b 9]
      mirroring := (blobByte b 10).setWidth 1
      prgRamProtect := blobByte b 11
      irqLatch := blobByte b 12
      irqCounter := blobByte b 13
      irqEnable := (blobByte b 14).getLsbD 0
      irqReload := (blobByte b 14).getLsbD 1
      irqPending := (blobByte b 14).getLsbD 2
      a12LowRun := (blobByte b 15).toNat }

end Sys2Proof.Machine
end

