-- ==== Sys2Proof/Machine/HostCalls.lean ====
section
/-! DEFINITION. The host calls: tick, reset, IRQ query and acknowledge, mirroring query, save and restore
(44_host_calls.md R246 to R253; 70_reset_and_hazards.md R290 to R292). -/

namespace Sys2Proof.Machine

/-- The registers after a tick: nothing changes in SWAP (R144) and SERIAL (R170). -/
def tickRegs (p : Params) (level : Bool) : Regs → Regs
  | .swap r => .swap r
  | .serial r => .serial r
  | .scan r => .scan (tickScan p level r)

/-- The registers after an acknowledge: SCAN clears the pending flag and nothing else (R248, D29). -/
def ackRegs : Regs → Regs
  | .swap r => .swap r
  | .serial r => .serial r
  | .scan r => .scan { r with irqPending := false }

/-- `TICK L` (R246). -/
def execTick (level : Bool) (s : State) : Host.Outcome State Fault Refusal :=
  .next (setRegs s (tickRegs s.params level s.regs))

/-- `RESET` (R290): every register of the variant takes its reset value; no region changes (R292). -/
def execReset (s : State) : Host.Outcome State Fault Refusal :=
  .next (setRegs s (resetRegs s.params s.header s.variant))

/-- `IRQ_PENDING` (R247). -/
def execIrqPending (s : State) : Host.Outcome State Fault Refusal := .next (returning s (.flag (irqLevel s)))

/-- `IRQ_ACK` (R248). -/
def execIrqAck (s : State) : Host.Outcome State Fault Refusal :=
  .next (setRegs s (ackRegs s.regs))

/-- `GET_MIRRORING` (R249). -/
def execGetMirroring (s : State) : Host.Outcome State Fault Refusal :=
  .next (returning s (.mirroring (mirroringCode (mirroringMode s))))

/-- `SAVE` (R251): returns the blob; no state changes. -/
def execSave (s : State) : Host.Outcome State Fault Refusal := .next (returning s (.blob (blobOf s.regs)))

/-- `RESTORE b` (R252): refused if the blob is malformed or another variant's, else every register from the blob. -/
def execRestore (blob : Blob) (s : State) : Host.Outcome State Fault Refusal :=
  if blobWellFormed s.params s.variant blob then
    .next (setRegs s (regsOfBlob s.variant blob))
  else .refused .badBlob

end Sys2Proof.Machine
end

