-- ==== Sys2Proof/Machine/Scan.lean ====
section
/-! DEFINITION. The register writes of SCAN (43_counter_irq.md R195 to R202). None changes `irqCounter` or
`a12LowRun`. -/

namespace Sys2Proof.Machine

/-- `CW.SCAN_BANK_SELECT` (R195). -/
def execCwScanBankSelect (_a : Addr) (v : Byte) (s : State) : Host.Outcome State Fault Refusal :=
  updateScan s fun r => { r with bankSelect := v }

/-- `CW.SCAN_BANK_DATA` (R196): loads the bank register that `bankSelect[2:0]` names. -/
def execCwScanBankData (_a : Addr) (v : Byte) (s : State) : Host.Outcome State Fault Refusal :=
  updateScan s fun r => { r with bankRegisters := r.bankRegisters.set (scanTarget r) v }

/-- `CW.SCAN_MIRRORING` (R197): stores `v[0]`. -/
def execCwScanMirroring (_a : Addr) (v : Byte) (s : State) : Host.Outcome State Fault Refusal :=
  updateScan s fun r => { r with mirroring := mirroringBitOf v }

/-- `CW.SCAN_PRG_RAM_PROTECT` (R198). -/
def execCwScanPrgRamProtect (_a : Addr) (v : Byte) (s : State) : Host.Outcome State Fault Refusal :=
  updateScan s fun r => { r with prgRamProtect := v }

/-- `CW.SCAN_IRQ_LATCH` (R199). -/
def execCwScanIrqLatch (_a : Addr) (v : Byte) (s : State) : Host.Outcome State Fault Refusal :=
  updateScan s fun r => { r with irqLatch := v }

/-- `CW.SCAN_IRQ_RELOAD` (R200, D25): requests a reload; the counter is not changed here. -/
def execCwScanIrqReload (_a : Addr) (_v : Byte) (s : State) : Host.Outcome State Fault Refusal :=
  updateScan s fun r => { r with irqReload := true }

/-- `CW.SCAN_IRQ_DISABLE` (R201, D25): disables and clears a pending IRQ. -/
def execCwScanIrqDisable (_a : Addr) (_v : Byte) (s : State) : Host.Outcome State Fault Refusal :=
  updateScan s fun r => { r with irqEnable := false, irqPending := false }

/-- `CW.SCAN_IRQ_ENABLE` (R202). -/
def execCwScanIrqEnable (_a : Addr) (_v : Byte) (s : State) : Host.Outcome State Fault Refusal :=
  updateScan s fun r => { r with irqEnable := true }

end Sys2Proof.Machine
end

