-- ==== Sys2Proof/Machine/Serial.lean ====
section
/-! DEFINITION. The register writes of SERIAL (42_shift_register.md R163 to R169). -/

namespace Sys2Proof.Machine

/-- `commit(r, value)` (R165): all 5 bits stored. -/
def serialCommit (r : SerialRegs) (t : SerialTarget) (value : BitVec 5) : SerialRegs :=
  match t with
  | .control => { r with control := value }
  | .chr0 => { r with chr0 := value }
  | .chr1 => { r with chr1 := value }
  | .prg => { r with prg := value }

/-- The shift register after one more bit: `(v[0] << 4) | (shiftRegister >> 1)` (R164). -/
def shiftIn (v : Byte) (shift : BitVec 5) : BitVec 5 := serialBitOf v ++ shift.extractLsb' 1 4

/-- `serialBit(s, a, v)` (R164): the fifth contributing write commits to the register its address selects. -/
def serialBit (a : Addr) (v : Byte) (r : SerialRegs) : SerialRegs :=
  let shifted := shiftIn v r.shiftRegister
  if r.writeCount + 1 = 5 then { serialCommit r (serialTarget a) shifted with shiftRegister := 0, writeCount := 0 }
  else { r with shiftRegister := shifted, writeCount := r.writeCount + 1 }

/-- The effect of a write with bit 7 set (R163, D17). -/
def serialAbandon (p : Params) (r : SerialRegs) : SerialRegs :=
  { r with
    shiftRegister := 0
    writeCount := 0
    control := if p.serialResetForcesPrgMode3 then r.control ||| 0x0C#5 else r.control }

/-- `CW.SERIAL_RESET` (R163). -/
def execCwSerialReset (_a : Addr) (_v : Byte) (s : State) : Host.Outcome State Fault Refusal :=
  updateSerial s (serialAbandon s.params)

/-- `CW.SERIAL_CTRL` (R166). -/
def execCwSerialCtrl (a : Addr) (v : Byte) (s : State) : Host.Outcome State Fault Refusal :=
  updateSerial s (serialBit a v)

/-- `CW.SERIAL_CHR0` (R167). -/
def execCwSerialChr0 (a : Addr) (v : Byte) (s : State) : Host.Outcome State Fault Refusal :=
  updateSerial s (serialBit a v)

/-- `CW.SERIAL_CHR1` (R168). -/
def execCwSerialChr1 (a : Addr) (v : Byte) (s : State) : Host.Outcome State Fault Refusal :=
  updateSerial s (serialBit a v)

/-- `CW.SERIAL_PRG` (R169). -/
def execCwSerialPrg (a : Addr) (v : Byte) (s : State) : Host.Outcome State Fault Refusal :=
  updateSerial s (serialBit a v)

end Sys2Proof.Machine
end

