-- ==== Sys2Proof/Machine/Swap.lean ====
section
/-! DEFINITION. The register write of SWAP (41_simple_swap.md R142). -/

namespace Sys2Proof.Machine

/-- `CW.SWAP_BANK` (R142): the whole data byte becomes the bank of window 0, whatever the address. -/
def execCwSwapBank (_a : Addr) (v : Byte) (s : State) : Host.Outcome State Fault Refusal :=
  updateSwap s fun _ => { prgBank := v }

end Sys2Proof.Machine
end

