-- ==== Sys2Proof/Machine/Dispatch.lean ====
section
/-! DEFINITION. What each transaction does to an instance: one arm per constructor of `Instr`. -/

namespace Sys2Proof.Machine

def exec (i : Instr) (s : State) : Host.Outcome State Fault Refusal :=
  match i with
  -- rows of every variant
  | .refusedCrUnrouted a => Sys2Proof.Machine.execRefusedCrUnrouted a s
  | .refusedCwUnrouted a v => Sys2Proof.Machine.execRefusedCwUnrouted a v s
  | .crOpen a => Sys2Proof.Machine.execCrOpen a s
  | .cwOpen a v => Sys2Proof.Machine.execCwOpen a v s
  | .crPrgRam a => Sys2Proof.Machine.execCrPrgRam a s
  | .cwPrgRam a v => Sys2Proof.Machine.execCwPrgRam a v s
  | .crPrgRom a => Sys2Proof.Machine.execCrPrgRom a s
  | .prChr a => Sys2Proof.Machine.execPrChr a s
  | .pwChr a v => Sys2Proof.Machine.execPwChr a v s
  | .tick level => Sys2Proof.Machine.execTick level s
  | .reset => Sys2Proof.Machine.execReset s
  | .irqPending => Sys2Proof.Machine.execIrqPending s
  | .irqAck => Sys2Proof.Machine.execIrqAck s
  | .getMirroring => Sys2Proof.Machine.execGetMirroring s
  | .save => Sys2Proof.Machine.execSave s
  | .restore blob => Sys2Proof.Machine.execRestore blob s
  -- rows of SWAP
  | .cwSwapBank a v => Sys2Proof.Machine.execCwSwapBank a v s
  -- rows of SERIAL
  | .cwSerialReset a v => Sys2Proof.Machine.execCwSerialReset a v s
  | .cwSerialCtrl a v => Sys2Proof.Machine.execCwSerialCtrl a v s
  | .cwSerialChr0 a v => Sys2Proof.Machine.execCwSerialChr0 a v s
  | .cwSerialChr1 a v => Sys2Proof.Machine.execCwSerialChr1 a v s
  | .cwSerialPrg a v => Sys2Proof.Machine.execCwSerialPrg a v s
  -- rows of SCAN
  | .cwScanBankSelect a v => Sys2Proof.Machine.execCwScanBankSelect a v s
  | .cwScanBankData a v => Sys2Proof.Machine.execCwScanBankData a v s
  | .cwScanMirroring a v => Sys2Proof.Machine.execCwScanMirroring a v s
  | .cwScanPrgRamProtect a v => Sys2Proof.Machine.execCwScanPrgRamProtect a v s
  | .cwScanIrqLatch a v => Sys2Proof.Machine.execCwScanIrqLatch a v s
  | .cwScanIrqReload a v => Sys2Proof.Machine.execCwScanIrqReload a v s
  | .cwScanIrqDisable a v => Sys2Proof.Machine.execCwScanIrqDisable a v s
  | .cwScanIrqEnable a v => Sys2Proof.Machine.execCwScanIrqEnable a v s

end Sys2Proof.Machine
end

