-- ==== Sys2Proof/Machine/Step.lean ====
section
/-! DEFINITION. One step: the host's next transaction is decoded in the instance's variant and applied in full
(00_scope.md R6, 10_state.md R20, R22, 20_memory.md R70, 30_encoding.md R84). -/

namespace Sys2Proof.Machine

/-- The step. With no transaction pending there is none (R20); a word that no row decodes is refused (R86); else the
script position advances by one (R22) and the instruction runs. -/
def step (s : State) : Host.Outcome State Fault Refusal :=
  match s.pending with
  | [] => .refused .noTransaction
  | q :: rest =>
    match decode s.variant q with
    | .error reason => .refused (.word reason)
    | .ok i => exec i (issued s rest)

/-- The state in which the host's next transaction is the table word `w`, before those already pending. -/
def State.withFetchWord (s : State) (_nbits w : Nat) : State :=
  { s with pending := Request.ofTableWord w :: s.pending }

end Sys2Proof.Machine
end

