-- ==== Sys2Proof/Machine/Construct.lean ====
section
/-! DEFINITION. Construction (44_host_calls.md R240 to R243; 60_exceptions.md R270): not a transaction but the call
that makes an instance, or fails with one of the block's two errors. -/

namespace Sys2Proof.Machine

/-- The variant a mapper id selects (R240, D1); no default. -/
def variantOfId (mapperId : Nat) : Option Variant :=
  match mapperId with
  | 1 => some .serial
  | 2 => some .swap
  | 4 => some .scan
  | _ => none

/-- The number of the first failing check of R241, if one fails. -/
def failedCheck (v : Variant) (h : Header) (prgLen chrLen : Nat) : Option Nat :=
  if h.prgBanks16 < 1 then some 1
  else if v = .swap ∧ h.prgBanks16 < 2 then some 2
  else if prgLen ≠ h.prgBanks16 * size16K then some 3
  else if chrLen ≠ h.chrBanks8 * size8K then some 4
  else none

/-- `create(...)` (R240 to R242). The parameters `p` (R7) and the two draws `initPrgRam` and `initChrRam` (R24, R242)
are arguments, so every value of each is admitted. No transaction has been issued to a fresh instance. -/
def create (p : Params) (mapperId : Nat) (h : Header) (prgImage chrImage : List Byte)
    (initPrgRam initChrRam : Nat → Byte) : Host.Outcome State Fault Refusal :=
  match variantOfId mapperId with
  | none => .fault (.unsupportedMapper mapperId)
  | some v =>
    match failedCheck v h prgImage.length chrImage.length with
    | some k => .fault (.bankCountInconsistent k)
    | none => .next {
        params := p
        header := h
        regs := resetRegs p h v
        prgRom := Memory.ofBytes prgImage
        prgRam := Memory.ofDraw prgRamSize initPrgRam
        chr := if h.chrBanks8 = 0 then Memory.ofDraw chrRamSize initChrRam else Memory.ofBytes chrImage
        pending := []
        pos := 0
        result := .nothing
        draws := 0 }

end Sys2Proof.Machine
end

