-- ==== Sys2Proof/Machine/Script.lean ====
section
/-! DEFINITION. Scripts (30_encoding.md R89, R90): the words of the script syntax, the pseudo-instructions, and the
run of a script on an instance. A blob that a script binds to a name stands in the request itself (R91; log 8). -/

namespace Sys2Proof.Machine

/-- `CR $aaaa` (R89). -/
def scriptCR (a : Addr) : Request := { word := 0x0#4 ++ 0x0#4 ++ a ++ 0x00#8 }

/-- `CW $aaaa, #$dd` (R89). -/
def scriptCW (a : Addr) (d : Byte) : Request := { word := 0x1#4 ++ 0x0#4 ++ a ++ d }

/-- `PR $aaaa` (R89). -/
def scriptPR (a : Addr) : Request := { word := 0x2#4 ++ 0x0#4 ++ a ++ 0x00#8 }

/-- `PW $aaaa, #$dd` (R89). -/
def scriptPW (a : Addr) (d : Byte) : Request := { word := 0x3#4 ++ 0x0#4 ++ a ++ d }

/-- `TICK 0` and `TICK 1` (R89). -/
def scriptTick (level : Bool) : Request := { word := if level then 0x40000001#32 else 0x40000000#32 }

/-- `RESET` (R89). -/
def scriptReset : Request := { word := 0x50000000#32 }

/-- `IRQ?` (R89). -/
def scriptIrq : Request := { word := 0x60000000#32 }

/-- `ACK` (R89). -/
def scriptAck : Request := { word := 0x70000000#32 }

/-- `MIR?` (R89). -/
def scriptMir : Request := { word := 0x80000000#32 }

/-- `SAVE name` (R89). -/
def scriptSave : Request := { word := 0x90000000#32 }

/-- `RESTORE name` with the blob bound to the name (R89, R91). -/
def scriptRestore (b : Blob) : Request := { word := 0xA0000000#32, blob := b }

/-- `A12CLK` (R90): `TICK 0` repeated `A12_FILTER` times, then `TICK 1`. -/
def scriptA12CLK (p : Params) : List Request := List.replicate p.a12Filter (scriptTick false) ++ [scriptTick true]

/-- The `i`-th word of `SLOAD $aaaa, #v`: data bit 0 is `v[i]` (R90). -/
def scriptSloadBit (a : Addr) (v : BitVec 5) (i : Nat) : Request :=
  scriptCW a (if v.getLsbD i then 1#8 else 0#8)

/-- `SLOAD $aaaa, #v` (R90). -/
def scriptSLOAD (a : Addr) (v : BitVec 5) : List Request :=
  [scriptSloadBit a v 0, scriptSloadBit a v 1, scriptSloadBit a v 2, scriptSloadBit a v 3, scriptSloadBit a v 4]

/-- `SRESET $aaaa` (R90). -/
def scriptSRESET (a : Addr) : Request := scriptCW a 0x80#8

/-- `SBANK sel, v` (R90). -/
def scriptSBANK (sel v : Byte) : List Request := [scriptCW 0x8000#16 sel, scriptCW 0x8001#16 v]

/-- `k` steps, stopping at the first fault or refusal. -/
def steps : Nat → State → Host.Outcome State Fault Refusal
  | 0, s => .next s
  | k + 1, s =>
    match step s with
    | .next t => steps k t
    | .fault r => .fault r
    | .refused r => .refused r

/-- The instance with the script as the host's only pending transactions. -/
def withScript (s : State) (qs : List Request) : State := { s with pending := qs }

/-- The run of a script on an instance: one step per transaction (R89). -/
def runScript (s : State) (qs : List Request) : Host.Outcome State Fault Refusal :=
  steps qs.length (withScript s qs)

end Sys2Proof.Machine
end

