-- ==== Sys2Proof/Safety.lean ====
section
/-! DEFINITION. What counts as a well-formed instance: the ranges 00_scope.md and 10_state.md give the parameters, the
header, the registers and the regions. `create` makes such a state and every step keeps it. -/

namespace Sys2Proof.Machine

/-- `A12_FILTER` is in 1..255 (R7). -/
def paramsWf (p : Params) : Bool := decide (1 ≤ p.a12Filter) && decide (p.a12Filter ≤ 255)

/-- The bank counts meet checks 1 and 2 of R241. -/
def headerWf (v : Variant) (h : Header) : Bool :=
  decide (1 ≤ h.prgBanks16) && (decide (v ≠ .swap) || decide (2 ≤ h.prgBanks16))

/-- The registers whose range is smaller than their type: `writeCount` in 0..4 (R29), `a12LowRun` in
0..`A12_FILTER` (R43). -/
def Regs.wf (p : Params) : Regs → Bool
  | .swap _ => true
  | .serial r => decide (r.writeCount ≤ 4)
  | .scan r => decide (r.a12LowRun ≤ p.a12Filter)

/-- A region's contents are canonical and inside the region (R23). -/
def regionWf (s : State) (R : Region) : Bool :=
  Memory.wf (regionContents s R) && Memory.below (regionContents s R) (regionLen s R)

/-- A well-formed instance. -/
def State.wf (s : State) : Bool :=
  paramsWf s.params && headerWf s.variant s.header && Regs.wf s.params s.regs
    && regionWf s .prgRom && regionWf s .prgRam && regionWf s .chr

end Sys2Proof.Machine
end

