-- ==== Sys2Proof/Certificates/Slice0/Obligations.lean ====
section
/-! DEFINITION. The statements for the provers. Each is about the block alone: no program, no trace. Parameters,
header, register values and region contents are quantified over, so nothing rests on the values `State.reset` takes
(log 1 to 3, log 11), and nothing rests on the value of an open-bus draw (log 4). -/

open Sys2Proof Sys2Proof.Machine

/-! ### Vocabulary of the statements -/

/-- The words R82 and R120, R121 allow: reserved field 0, routed address, unused fields 0. -/
def Sys2Proof.Claims.legalWord (w : Word) : Prop :=
  zOf w = 0#4 ∧
    ((kindOf w).toNat = 0 ∧ 0x4020 ≤ (addrOf w).toNat ∧ dataOf w = 0#8 ∨
      (kindOf w).toNat = 1 ∧ 0x4020 ≤ (addrOf w).toNat ∨
      (kindOf w).toNat = 2 ∧ (addrOf w).toNat < 0x2000 ∧ dataOf w = 0#8 ∨
      (kindOf w).toNat = 3 ∧ (addrOf w).toNat < 0x2000 ∨
      (kindOf w).toNat = 4 ∧ addrOf w = 0#16 ∧ (dataOf w).toNat ≤ 1 ∨
      5 ≤ (kindOf w).toNat ∧ (kindOf w).toNat ≤ 10 ∧ addrOf w = 0#16 ∧ dataOf w = 0#8)

/-- A read of PRG address `a` answers the byte at offset `o` of `PRGROM` and changes nothing else. -/
def Sys2Proof.Claims.prgReadReturns (s : State) (a : Addr) (o : Nat) : Prop :=
  exec (.crPrgRom a) s = .next { s with result := .byte (Memory.read s.prgRom o) }

/-- A read of graphics address `a` answers the byte at offset `o` of `CHR` and changes nothing else. -/
def Sys2Proof.Claims.chrReadReturns (s : State) (a : Addr) (o : Nat) : Prop :=
  exec (.prChr a) s = .next { s with result := .byte (Memory.read s.chr o) }

/-- `(v[0] << 4) | (shift >> 1)` (R164). -/
def Sys2Proof.Claims.shifted (v : Byte) (shift : BitVec 5) : BitVec 5 :=
  (if v.getLsbD 0 then 0x10#5 else 0x00#5) ||| (shift >>> 1)

/-- The SERIAL registers after the value `v` was committed to the register that address `a` selects (R165). -/
def Sys2Proof.Claims.loaded (r : SerialRegs) (a : Addr) (v : BitVec 5) : SerialRegs :=
  if a.toNat < 0xA000 then { r with control := v, shiftRegister := 0, writeCount := 0 }
  else if a.toNat < 0xC000 then { r with chr0 := v, shiftRegister := 0, writeCount := 0 }
  else if a.toNat < 0xE000 then { r with chr1 := v, shiftRegister := 0, writeCount := 0 }
  else { r with prg := v, shiftRegister := 0, writeCount := 0 }

/-- The CHR offset that SCAN shows at `x`, an address counted from the first 2K window: two 2K windows on R0 and R1,
then four 1K windows on R2..R5, each modulo its bank count (R192, R100). -/
def Sys2Proof.Claims.scanChrOffset (r : ScanRegs) (len x : Nat) : Nat :=
  if x < 0x0800 then r.bankRegisters[0].toNat / 2 % (len / 2048) * 2048 + x
  else if x < 0x1000 then r.bankRegisters[1].toNat / 2 % (len / 2048) * 2048 + (x - 0x0800)
  else if x < 0x1400 then r.bankRegisters[2].toNat % (len / 1024) * 1024 + (x - 0x1000)
  else if x < 0x1800 then r.bankRegisters[3].toNat % (len / 1024) * 1024 + (x - 0x1400)
  else if x < 0x1C00 then r.bankRegisters[4].toNat % (len / 1024) * 1024 + (x - 0x1800)
  else r.bankRegisters[5].toNat % (len / 1024) * 1024 + (x - 0x1C00)

/-! ### Encoding, decoding and the step (30_encoding.md) -/

/-- Encoding then decoding gives every well-formed instruction back, with every operand (R81 to R85, R88). -/
def Obligations.DecodeOfEncodeGivesTheInstruction : Prop :=
  ∀ (v : Variant) (i : Instr), i.wellFormed v = true → decode v (encode i) = .ok i

/-- Every word that decodes names one well-formed instruction, which encodes to exactly that word: no bit of a legal
word is dropped (R81, R82, R86). -/
def Obligations.EncodeOfDecodeGivesTheWord : Prop :=
  ∀ (v : Variant) (q : Request) (i : Instr), decode v q = .ok i →
    i.wellFormed v = true ∧ (encode i).word = q.word ∧ ∀ b, i = .restore b → b = q.blob

/-- Words of vectors V8, V9 and R89, written out, name the instructions the tables give, by variant (R85). -/
def Obligations.WrittenOutWordsDecode : Prop :=
  decode .swap { word := 0x10800080#32 } = .ok (.cwSwapBank 0x8000#16 0x80#8) ∧
  decode .serial { word := 0x10800080#32 } = .ok (.cwSerialReset 0x8000#16 0x80#8) ∧
  decode .scan { word := 0x10800080#32 } = .ok (.cwScanBankSelect 0x8000#16 0x80#8) ∧
  decode .serial { word := 0x10A00001#32 } = .ok (.cwSerialChr0 0xA000#16 0x01#8) ∧
  decode .scan { word := 0x10C00100#32 } = .ok (.cwScanIrqReload 0xC001#16 0x00#8) ∧
  decode .scan { word := 0x00FFFF00#32 } = .ok (.crPrgRom 0xFFFF#16) ∧
  decode .swap { word := 0x301FFF01#32 } = .ok (.pwChr 0x1FFF#16 0x01#8) ∧
  decode .serial { word := 0x40000001#32 } = .ok (.tick true) ∧
  decode .swap { word := 0x00401F00#32 } = .ok (.refusedCrUnrouted 0x401F#16) ∧
  decode .swap { word := 0x00402000#32 } = .ok (.crOpen 0x4020#16)

/-- Within one variant two rows of the opcode table hit the same word only if the earlier is one of the two refusal
rows, which stand first (R84). -/
def Obligations.RowsOverlapOnlyAtRefusalRows : Prop :=
  ∀ (v : Variant) (w : Word) (j k : Nat) (r r' : Row), opcodeTable[j]? = some r → opcodeTable[k]? = some r' → j < k →
    r.hits v w = true → r'.hits v w = true → j < 2

/-- An illegal transaction is refused for the first of R86's reasons that holds, in every state. -/
def Obligations.IllegalTransactionsAreRefusedByReason : Prop :=
  ∀ (s : State) (q : Request) (rest : List Request), s.pending = q :: rest →
    (11 ≤ (kindOf q.word).toNat → step s = .refused (.word .reservedKind)) ∧
    ((kindOf q.word).toNat ≤ 10 → zOf q.word ≠ 0#4 → step s = .refused (.word .reservedBits)) ∧
    ((kindOf q.word).toNat ≤ 1 → zOf q.word = 0#4 → (addrOf q.word).toNat < 0x4020 →
      step s = .refused (.word .unroutedCpuAddress)) ∧
    ((kindOf q.word).toNat = 2 ∨ (kindOf q.word).toNat = 3 → zOf q.word = 0#4 → 0x2000 ≤ (addrOf q.word).toNat →
      step s = .refused (.word .unroutedPpuAddress)) ∧
    (zOf q.word = 0#4 →
      ((kindOf q.word).toNat = 0 ∧ 0x4020 ≤ (addrOf q.word).toNat ∧ dataOf q.word ≠ 0#8 ∨
        (kindOf q.word).toNat = 2 ∧ (addrOf q.word).toNat < 0x2000 ∧ dataOf q.word ≠ 0#8 ∨
        (kindOf q.word).toNat = 4 ∧ (addrOf q.word ≠ 0#16 ∨ 2 ≤ (dataOf q.word).toNat) ∨
        5 ≤ (kindOf q.word).toNat ∧ (kindOf q.word).toNat ≤ 10 ∧ (addrOf q.word ≠ 0#16 ∨ dataOf q.word ≠ 0#8)) →
      step s = .refused (.word .nonzeroUnusedField)) ∧
    (q.word = 0xA0000000#32 → blobWellFormed s.params s.variant q.blob = false → step s = .refused .badBlob)

/-- No step raises an error, and every legal transaction has a step, in every state of every variant, and advances the
script by exactly one; for RESTORE the blob must be well formed (R22, R86, R271, R280). That the script is the list
`pending` and its position the count `pos` is the model's choice (log 5, log 6). -/
def Obligations.LegalTransactionsRunWithoutError : Prop :=
  (∀ (s : State) (f : Fault), step s ≠ .fault f) ∧
  ∀ (s : State) (q : Request) (rest : List Request), s.pending = q :: rest → Claims.legalWord q.word →
    (q.word = 0xA0000000#32 → blobWellFormed s.params s.variant q.blob = true) →
    ∃ t, step s = .next t ∧ t.pending = rest ∧ t.pos = s.pos + 1

/-- A step decodes the host's next transaction in the instance's variant and runs it, with the script position one
further (R22, R84). -/
def Obligations.StepRunsTheDecodedInstruction : Prop :=
  ∀ (s : State) (q : Request) (rest : List Request) (i : Instr), s.pending = q :: rest →
    decode s.variant q = .ok i → step s = exec i { s with pending := rest, pos := s.pos + 1 }

/-- A CPU word with an address below 0x4020 is refused with R86's reason UNROUTED_CPU_ADDRESS and has no step: at
0x4000..0x401F by the two REFUSED rows, which stop on every path, below 0x4000 since no row covers it (R120). -/
def Obligations.UnroutedRowsAreRefused : Prop :=
  (∀ (a : Addr) (v : Byte) (s : State),
    exec (.refusedCrUnrouted a) s = .refused (.word .unroutedCpuAddress) ∧
    exec (.refusedCwUnrouted a v) s = .refused (.word .unroutedCpuAddress)) ∧
  ∀ (v : Variant) (q : Request), (kindOf q.word).toNat ≤ 1 → zOf q.word = 0#4 →
    ((addrOf q.word).toNat < 0x4000 → decode v q = .error .unroutedCpuAddress) ∧
    (0x4000 ≤ (addrOf q.word).toNat → (addrOf q.word).toNat ≤ 0x401F →
      decode v q =
        if (kindOf q.word).toNat = 1 then .ok (.refusedCwUnrouted (addrOf q.word) (dataOf q.word))
        else if dataOf q.word = 0#8 then .ok (.refusedCrUnrouted (addrOf q.word))
        else .error .unroutedCpuAddress)

/-! ### The bank window (40_bank_window.md) -/

/-- `resolveBank` counts a negative number from the last bank and takes the Euclidean remainder, so its result is
always a bank (R100); −1 is the last bank and −2 the one before, and a number past the end wraps (R107). The identity
with the remainder and the laws of R107 are the spec's own inferences. -/
def Obligations.ResolvedBankIsAlwaysABank : Prop :=
  ∀ (b : Int) (n : Nat), 1 ≤ n →
    resolveBank b n < n ∧ (resolveBank b n : Int) = b % n ∧ resolveBank (-1) n = n - 1 ∧
      (2 ≤ n → resolveBank (-2) n = n - 2) ∧ ∀ c : Nat, resolveBank (c : Int) n = resolveBank ((c % n : Nat) : Int) n

/-- A window's offset lies inside its region; in a region at least as long as the window it is the bank's first byte
plus the distance into the window, and a shorter region repeats (R101, R102). -/
def Obligations.WindowOffsetStaysInsideTheRegion : Prop :=
  ∀ (base size len : Nat) (b : Int) (a : Nat), 0 < size → 0 < len → base ≤ a → a < base + size →
    windowOffset base size len b a < len ∧
      (size ≤ len → windowOffset base size len b a = resolveBank b (len / size) * size + (a - base)) ∧
      (len < size → windowOffset base size len b a = (a - base) % len)

/-- In every state the PRG windows partition 0x8000..0xFFFF and the CHR windows 0x0000..0x1FFF; each size is a power
of two from 1K to 32K and each base a multiple of its size (R105, R106). -/
def Obligations.LayoutsPartitionTheirBusRanges : Prop :=
  ∀ s : State,
    (∀ a, 0x8000 ≤ a → a ≤ 0xFFFF → prgWin s a ∈ prgLayout s ∧ (prgWin s a).covers a = true ∧
      ∀ w ∈ prgLayout s, w.covers a = true → w = prgWin s a) ∧
    (∀ a, a ≤ 0x1FFF → chrWin s a ∈ chrLayout s ∧ (chrWin s a).covers a = true ∧
      ∀ w ∈ chrLayout s, w.covers a = true → w = chrWin s a) ∧
    (∀ w ∈ prgLayout s, 0x8000 ≤ w.base ∧ w.base + w.size ≤ 0x10000 ∧ w.base % w.size = 0 ∧
      w.size ∈ [1024, 2048, 4096, 8192, 16384, 32768]) ∧
    (∀ w ∈ chrLayout s, w.base + w.size ≤ 0x2000 ∧ w.base % w.size = 0 ∧
      w.size ∈ [1024, 2048, 4096, 8192, 16384, 32768])

/-- A 2K window on bank `v >> 1` shows the same bytes as the 1K banks `v & 0xFE` and `v | 1` (R192). -/
def Obligations.TwoKWindowShowsTwoOneKBanks : Prop :=
  ∀ (v : Byte) (len base x : Nat), 0 < len → len % 2048 = 0 → x < 1024 →
    windowOffset base 2048 len ((v.toNat / 2 : Nat) : Int) (base + x) =
      windowOffset base 1024 len ((v &&& 0xFE#8).toNat : Int) (base + x) ∧
    windowOffset base 2048 len ((v.toNat / 2 : Nat) : Int) (base + 1024 + x) =
      windowOffset (base + 1024) 1024 len ((v ||| 0x01#8).toNat : Int) (base + 1024 + x)

/-! ### Bus operations of every variant -/

/-- `CR.OPEN` returns a draw, the free value `Config.openBus`, and changes nothing else but the count of draws taken,
the model's own field (R111; log 4); `CW.OPEN` changes nothing (R113). -/
def Obligations.OpenBusAccessesChangeNothing : Prop :=
  ∀ (a : Addr) (v : Byte) (s : State),
    exec (.crOpen a) s = .next { s with result := .byte (Config.openBus s.draws), draws := s.draws + 1 } ∧
    exec (.cwOpen a v) s = .next { s with result := .nothing }

/-- `CR.PRGRAM` returns the PRG-RAM byte, unless a SCAN instance has `prgRamProtect[7] = 0`: then a draw (R114, R119;
the field is the spec's decision D24; the draw's count is the model's own field, log 4). -/
def Obligations.PrgRamReadFollowsItsGate : Prop :=
  ∀ (a : Addr) (s : State), 0x6000 ≤ a.toNat → a.toNat ≤ 0x7FFF →
    ((∀ r, s.regs = .scan r → r.prgRamProtect.getLsbD 7 = true) →
      exec (.crPrgRam a) s = .next { s with result := .byte (Memory.read s.prgRam (a.toNat - 0x6000)) }) ∧
    (∀ r, s.regs = .scan r → r.prgRamProtect.getLsbD 7 = false →
      exec (.crPrgRam a) s = .next { s with result := .byte (Config.openBus s.draws), draws := s.draws + 1 })

/-- `CW.PRGRAM` stores, unless a SCAN instance has `prgRamProtect[7] = 0` or `prgRamProtect[6] = 1`: then nothing
happens (R115, R119; the field is the spec's decision D24). -/
def Obligations.PrgRamWriteFollowsItsGate : Prop :=
  ∀ (a : Addr) (v : Byte) (s : State), 0x6000 ≤ a.toNat → a.toNat ≤ 0x7FFF →
    ((∀ r, s.regs = .scan r → r.prgRamProtect.getLsbD 7 = true ∧ r.prgRamProtect.getLsbD 6 = false) →
      exec (.cwPrgRam a v) s =
        .next { s with prgRam := Memory.write s.prgRam (a.toNat - 0x6000) v, result := .nothing }) ∧
    (∀ r, s.regs = .scan r → (r.prgRamProtect.getLsbD 7 = false ∨ r.prgRamProtect.getLsbD 6 = true) →
      exec (.cwPrgRam a v) s = .next { s with result := .nothing })

/-- The frame of `CW.PRGRAM`: a store reads back at its own offset, and every other byte of every region reads as
before; a gated store leaves every byte (R115, R119, R104). -/
def Obligations.PrgRamStoreChangesOneByte : Prop :=
  ∀ (a : Addr) (v : Byte) (s t : State), s.wf = true → 0x6000 ≤ a.toNat → a.toNat ≤ 0x7FFF →
    exec (.cwPrgRam a v) s = .next t →
    (prgRamWritable s = true → regionRead t .prgRam (a.toNat - 0x6000) = v) ∧
    (∀ R o, prgRamWritable s = false ∨ ¬ (R = .prgRam ∧ o = a.toNat - 0x6000) →
      regionRead t R o = regionRead s R o)

/-- `CR.PRGROM` and `PR.CHR` read their region through the window that covers the address, and change nothing else
(R103, R116, R117). -/
def Obligations.ReadsGoThroughTheCoveringWindow : Prop :=
  ∀ (a : Addr) (s : State),
    (0x8000 ≤ a.toNat → exec (.crPrgRom a) s =
      .next { s with result := .byte (Memory.read s.prgRom (offsetOf s (prgWin s a.toNat) a.toNat)) }) ∧
    (a.toNat ≤ 0x1FFF → exec (.prChr a) s =
      .next { s with result := .byte (Memory.read s.chr (offsetOf s (chrWin s a.toNat) a.toNat)) })

/-- `PW.CHR` stores through the covering window on CHR-RAM and does nothing on CHR-ROM (R118, R104). -/
def Obligations.ChrWriteStoresOnChrRamOnly : Prop :=
  ∀ (a : Addr) (v : Byte) (s : State), a.toNat ≤ 0x1FFF →
    (s.header.chrBanks8 = 0 → exec (.pwChr a v) s =
      .next { s with chr := Memory.write s.chr (offsetOf s (chrWin s a.toNat) a.toNat) v, result := .nothing }) ∧
    (s.header.chrBanks8 ≠ 0 → exec (.pwChr a v) s = .next { s with result := .nothing })

/-- The frame of `PW.CHR`: on CHR-RAM a `PR` of the same address reads the byte back and every byte but the one at
the computed offset reads as before; on CHR-ROM every byte reads as before (R118, R104). -/
def Obligations.ChrStoreReadsBackAndChangesOneByte : Prop :=
  ∀ (a : Addr) (v : Byte) (s t : State), s.wf = true → a.toNat ≤ 0x1FFF → exec (.pwChr a v) s = .next t →
    (s.header.chrBanks8 = 0 → exec (.prChr a) t = .next { t with result := .byte v }) ∧
    (∀ R o, s.header.chrBanks8 ≠ 0 ∨ ¬ (R = .chr ∧ o = offsetOf s (chrWin s a.toNat) a.toNat) →
      regionRead t R o = regionRead s R o)

/-! ### SWAP (41_simple_swap.md) -/

/-- The SWAP layouts: `prgBank` modulo the bank count at 0x8000, the last bank at 0xC000, CHR bank 0 (R140, R141;
the 16K windows are the spec's decision D13). -/
def Obligations.SwapReadsThroughItsLayout : Prop :=
  ∀ (s : State) (r : SwapRegs) (a : Addr), s.regs = .swap r → 1 ≤ s.header.prgBanks16 →
    (0x8000 ≤ a.toNat → a.toNat ≤ 0xBFFF →
      Claims.prgReadReturns s a (r.prgBank.toNat % s.header.prgBanks16 * 16384 + (a.toNat - 0x8000))) ∧
    (0xC000 ≤ a.toNat → Claims.prgReadReturns s a ((s.header.prgBanks16 - 1) * 16384 + (a.toNat - 0xC000))) ∧
    (a.toNat ≤ 0x1FFF → Claims.chrReadReturns s a a.toNat)

/-- `CW.SWAP_BANK` at any register address stores the whole byte in `prgBank` and changes nothing else (R142;
no bus conflict: the spec's decision D13). -/
def Obligations.SwapBankWriteSetsPrgBank : Prop :=
  ∀ (s : State) (r : SwapRegs) (a : Addr) (v : Byte), s.regs = .swap r →
    exec (.cwSwapBank a v) s = .next { s with regs := .swap { prgBank := v }, result := .nothing }

/-- After `CW.SWAP_BANK` the very next read of window 0 shows bank `v mod n`, window 1 reads as before, and writing
the same byte again changes nothing (R146, R300). -/
def Obligations.SwapWriteMovesOnlyWindowZero : Prop :=
  ∀ (s : State) (r : SwapRegs) (a : Addr) (v : Byte), s.regs = .swap r → 1 ≤ s.header.prgBanks16 →
    ∃ t, exec (.cwSwapBank a v) s = .next t ∧ exec (.cwSwapBank a v) t = .next t ∧
      (∀ b : Addr, 0x8000 ≤ b.toNat → b.toNat ≤ 0xBFFF →
        Claims.prgReadReturns t b (v.toNat % s.header.prgBanks16 * 16384 + (b.toNat - 0x8000))) ∧
      (∀ b : Addr, 0xC000 ≤ b.toNat → prgWin t b.toNat = prgWin s b.toNat ∧
        winRead t (prgWin t b.toNat) b.toNat = winRead s (prgWin s b.toNat) b.toNat)

/-! ### SERIAL (42_shift_register.md) -/

/-- The SERIAL PRG layout by `control[3:2]` (R160, the spec's decision D15). With one 16K bank the 32K window repeats
it. -/
def Obligations.SerialReadsThroughItsPrgLayout : Prop :=
  ∀ (s : State) (r : SerialRegs) (a : Addr), s.regs = .serial r → 1 ≤ s.header.prgBanks16 → 0x8000 ≤ a.toNat →
    let n := s.header.prgBanks16
    let p := r.prg.toNat % 16
    let mode := r.control.toNat / 4 % 4
    (mode ≤ 1 → 2 ≤ n → Claims.prgReadReturns s a (p / 2 % (n / 2) * 32768 + (a.toNat - 0x8000))) ∧
    (mode ≤ 1 → n = 1 → Claims.prgReadReturns s a ((a.toNat - 0x8000) % 16384)) ∧
    (mode = 2 → a.toNat < 0xC000 → Claims.prgReadReturns s a (a.toNat - 0x8000)) ∧
    (mode = 2 → 0xC000 ≤ a.toNat → Claims.prgReadReturns s a (p % n * 16384 + (a.toNat - 0xC000))) ∧
    (mode = 3 → a.toNat < 0xC000 → Claims.prgReadReturns s a (p % n * 16384 + (a.toNat - 0x8000))) ∧
    (mode = 3 → 0xC000 ≤ a.toNat → Claims.prgReadReturns s a ((n - 1) * 16384 + (a.toNat - 0xC000)))

/-- The SERIAL CHR layout by `control[4]` (R161, the spec's decision D15). -/
def Obligations.SerialReadsThroughItsChrLayout : Prop :=
  ∀ (s : State) (r : SerialRegs) (a : Addr), s.regs = .serial r → a.toNat ≤ 0x1FFF →
    let len := chrSize s.header
    (r.control.getLsbD 4 = false → Claims.chrReadReturns s a (r.chr0.toNat / 2 % (len / 8192) * 8192 + a.toNat)) ∧
    (r.control.getLsbD 4 = true → a.toNat < 0x1000 →
      Claims.chrReadReturns s a (r.chr0.toNat % (len / 4096) * 4096 + a.toNat)) ∧
    (r.control.getLsbD 4 = true → 0x1000 ≤ a.toNat →
      Claims.chrReadReturns s a (r.chr1.toNat % (len / 4096) * 4096 + (a.toNat - 0x1000)))

/-- `CW.SERIAL_RESET` clears the shift state at any `writeCount`, commits nothing, and ORs `control` with 0x0C only
under the parameter (R163). -/
def Obligations.SerialHighBitWriteAbandonsTheSequence : Prop :=
  ∀ (s : State) (r : SerialRegs) (a : Addr) (v : Byte), s.regs = .serial r →
    (s.params.serialResetForcesPrgMode3 = false → exec (.cwSerialReset a v) s =
      .next { s with regs := .serial { r with shiftRegister := 0, writeCount := 0 }, result := .nothing }) ∧
    (s.params.serialResetForcesPrgMode3 = true → exec (.cwSerialReset a v) s =
      .next { s with
        regs := .serial { r with shiftRegister := 0, writeCount := 0, control := r.control ||| 0x0C#5 }
        result := .nothing })

/-- Bit writes 1 to 4 of a sequence shift one bit in and count it, at any register address, and change nothing else
(R164). -/
def Obligations.SerialBitsOneToFourShift : Prop :=
  ∀ (s : State) (r : SerialRegs) (a : Addr) (v : Byte), s.regs = .serial r → r.writeCount < 4 →
    let t : State := { s with
      regs := .serial { r with
        shiftRegister := Claims.shifted v r.shiftRegister
        writeCount := r.writeCount + 1 }
      result := .nothing }
    exec (.cwSerialCtrl a v) s = .next t ∧ exec (.cwSerialChr0 a v) s = .next t ∧
      exec (.cwSerialChr1 a v) s = .next t ∧ exec (.cwSerialPrg a v) s = .next t

/-- The fifth bit write commits the 5-bit value to the register its address selects, clears the shift state and
changes nothing else (R164 to R169; which address selects which register is the spec's decision D14). -/
def Obligations.SerialFifthBitCommits : Prop :=
  ∀ (s : State) (r : SerialRegs) (a : Addr) (v : Byte), s.regs = .serial r → r.writeCount = 4 →
    let x := Claims.shifted v r.shiftRegister
    (a.between 0x8000 0x9FFF = true → exec (.cwSerialCtrl a v) s =
      .next { s with
        regs := .serial { r with control := x, shiftRegister := 0, writeCount := 0 }, result := .nothing }) ∧
    (a.between 0xA000 0xBFFF = true → exec (.cwSerialChr0 a v) s =
      .next { s with
        regs := .serial { r with chr0 := x, shiftRegister := 0, writeCount := 0 }, result := .nothing }) ∧
    (a.between 0xC000 0xDFFF = true → exec (.cwSerialChr1 a v) s =
      .next { s with
        regs := .serial { r with chr1 := x, shiftRegister := 0, writeCount := 0 }, result := .nothing }) ∧
    (a.between 0xE000 0xFFFF = true → exec (.cwSerialPrg a v) s =
      .next { s with
        regs := .serial { r with prg := x, shiftRegister := 0, writeCount := 0 }, result := .nothing })

/-- `SLOAD`: from `writeCount = 0`, five words carrying the bits of `v` from bit 0 on load `v` into the register the
address selects, whatever the shift register held (R172, R90, R88). -/
def Obligations.FiveSerialWritesLoadARegister : Prop :=
  ∀ (s : State) (r : SerialRegs) (a : Addr) (v : BitVec 5), s.regs = .serial r → r.writeCount = 0 →
    0x8000 ≤ a.toNat →
    runScript s (scriptSLOAD a v) =
      .next { s with regs := .serial (Claims.loaded r a v), pending := [], pos := s.pos + 5, result := .nothing }

/-- `SRESET` then `SLOAD` loads `v` from ANY point of a sequence: an abandoned sequence contributes no bit (R172,
R163, R297). -/
def Obligations.ResetThenLoadDropsAnAbandonedSequence : Prop :=
  ∀ (s : State) (r : SerialRegs) (a b : Addr) (v : BitVec 5), s.regs = .serial r →
    s.params.serialResetForcesPrgMode3 = false → 0x8000 ≤ a.toNat → 0x8000 ≤ b.toNat →
    runScript s (scriptSRESET b :: scriptSLOAD a v) =
      .next { s with regs := .serial (Claims.loaded r a v), pending := [], pos := s.pos + 6, result := .nothing }

/-- In a SERIAL instance no transaction but a SERIAL register write, RESET or RESTORE changes any register, the shift
state included (R172). -/
def Obligations.OnlySerialWritesTouchTheSequence : Prop :=
  ∀ (i : Instr) (s t : State) (r : SerialRegs), s.regs = .serial r → exec i s = .next t →
    i.rowVariant ≠ some .serial → i ≠ .reset → (∀ b, i ≠ .restore b) → t.regs = .serial r

/-! ### SCAN (43_counter_irq.md) -/

/-- The SCAN PRG layout by `bankSelect[6]`: R6, R7, the second-last and the last of the `2 * prgBanks16` 8K banks
(R191; the spec's decisions D21 and D22). -/
def Obligations.ScanReadsThroughItsPrgLayout : Prop :=
  ∀ (s : State) (r : ScanRegs) (a : Addr), s.regs = .scan r → 1 ≤ s.header.prgBanks16 → 0x8000 ≤ a.toNat →
    let n := 2 * s.header.prgBanks16
    let r6 := r.bankRegisters[6].toNat % n * 8192
    let r7 := r.bankRegisters[7].toNat % n * 8192
    (a.toNat < 0xA000 → Claims.prgReadReturns s a
      ((if r.bankSelect.getLsbD 6 then (n - 2) * 8192 else r6) + (a.toNat - 0x8000))) ∧
    (0xA000 ≤ a.toNat → a.toNat < 0xC000 → Claims.prgReadReturns s a (r7 + (a.toNat - 0xA000))) ∧
    (0xC000 ≤ a.toNat → a.toNat < 0xE000 → Claims.prgReadReturns s a
      ((if r.bankSelect.getLsbD 6 then r6 else (n - 2) * 8192) + (a.toNat - 0xC000))) ∧
    (0xE000 ≤ a.toNat → Claims.prgReadReturns s a ((n - 1) * 8192 + (a.toNat - 0xE000)))

/-- The SCAN CHR layout: the 2K windows at 0x0000 and the 1K windows at 0x1000, the halves swapped when the CHR mode
bit is set, which is `bankSelect[7]` under the parameter and `bankSelect[6]` by default (R192; the spec's decisions
D21 and D22, and C6). -/
def Obligations.ScanReadsThroughItsChrLayout : Prop :=
  ∀ (s : State) (r : ScanRegs) (a : Addr), s.regs = .scan r → a.toNat ≤ 0x1FFF →
    let mode := r.bankSelect.getLsbD (if s.params.scanSeparateChrModeBit then 7 else 6)
    (mode = false → Claims.chrReadReturns s a (Claims.scanChrOffset r (chrSize s.header) a.toNat)) ∧
    (mode = true → a.toNat < 0x1000 →
      Claims.chrReadReturns s a (Claims.scanChrOffset r (chrSize s.header) (a.toNat + 0x1000))) ∧
    (mode = true → 0x1000 ≤ a.toNat →
      Claims.chrReadReturns s a (Claims.scanChrOffset r (chrSize s.header) (a.toNat - 0x1000)))

/-- The bank select and bank data writes: the whole byte, and exactly the bank register that `bankSelect[2:0]` names
(R195, R196). Nothing else changes. -/
def Obligations.ScanBankWritesSetTheirRegister : Prop :=
  ∀ (s : State) (r : ScanRegs) (a : Addr) (v : Byte), s.regs = .scan r →
    exec (.cwScanBankSelect a v) s =
      .next { s with regs := .scan { r with bankSelect := v }, result := .nothing } ∧
    ∃ banks : Vector Byte 8,
      exec (.cwScanBankData a v) s =
        .next { s with regs := .scan { r with bankRegisters := banks }, result := .nothing } ∧
      ∀ k : Fin 8, banks[k] = if k.val = r.bankSelect.toNat % 8 then v else r.bankRegisters[k]

/-- The mirroring write stores data bit 0, the PRG-RAM protect write the whole byte; nothing else changes (R197,
R198). -/
def Obligations.ScanMirroringAndProtectWritesSetTheirRegister : Prop :=
  ∀ (s : State) (r : ScanRegs) (a : Addr) (v : Byte), s.regs = .scan r →
    exec (.cwScanMirroring a v) s =
      .next { s with
        regs := .scan { r with mirroring := if v.getLsbD 0 then 1#1 else 0#1 }, result := .nothing } ∧
    exec (.cwScanPrgRamProtect a v) s =
      .next { s with regs := .scan { r with prgRamProtect := v }, result := .nothing }

/-- The IRQ latch, reload and enable writes set their register or flag and nothing else: the counter and the pending
flag stay (R199, R200, R202). That the reload write leaves the counter is the spec's decision D25. -/
def Obligations.ScanIrqWritesSetTheirRegister : Prop :=
  ∀ (s : State) (r : ScanRegs) (a : Addr) (v : Byte), s.regs = .scan r →
    exec (.cwScanIrqLatch a v) s =
      .next { s with regs := .scan { r with irqLatch := v }, result := .nothing } ∧
    exec (.cwScanIrqReload a v) s =
      .next { s with regs := .scan { r with irqReload := true }, result := .nothing } ∧
    exec (.cwScanIrqEnable a v) s =
      .next { s with regs := .scan { r with irqEnable := true }, result := .nothing }

/-- The disable write clears the enable and the pending flag and nothing else (R201). That it clears a pending IRQ is
the spec's own decision D25. -/
def Obligations.ScanIrqDisableClearsEnableAndPending : Prop :=
  ∀ (s : State) (r : ScanRegs) (a : Addr) (v : Byte), s.regs = .scan r →
    exec (.cwScanIrqDisable a v) s =
      .next { s with regs := .scan { r with irqEnable := false, irqPending := false }, result := .nothing }

/-- The latch, reload and enable writes give the same state in any order (R304). -/
def Obligations.IrqSetupWritesCommute : Prop :=
  ∀ (s : State) (r : ScanRegs) (v x y : Byte) (qs : List Request), s.regs = .scan r →
    qs.Perm [scriptCW 0xC000#16 v, scriptCW 0xC001#16 x, scriptCW 0xE001#16 y] →
    runScript s qs = .next { s with
      regs := .scan { r with irqLatch := v, irqReload := true, irqEnable := true }
      pending := [], pos := s.pos + 3, result := .nothing }

/-! ### The tick and the counter clock -/

/-- A tick changes nothing in SWAP and SERIAL; their `irq` output is 0 and `IRQ_PENDING` returns false (R144,
R170). -/
def Obligations.TickDoesNothingWithoutACounter : Prop :=
  ∀ (s : State) (level : Bool), (∀ r, s.regs ≠ .scan r) →
    exec (.tick level) s = .next { s with result := .nothing } ∧ irqLevel s = false ∧
      exec .irqPending s = .next { s with result := .flag false }

/-- A tick of SCAN, case by case (R220 to R222): a low tick lengthens the low run up to `A12_FILTER`; a high tick
ends it, and if the run had reached `A12_FILTER` it clocks the counter once: reload when the counter is 0 or a reload
was requested, else decrement, and then the pending flag rises if the counter is 0 and the IRQ enabled, after a
reload only under the parameter. Nothing else changes. -/
def Obligations.ScanTickFiltersAndClocks : Prop :=
  ∀ (s : State) (r : ScanRegs), s.regs = .scan r →
    let f := s.params.a12Filter
    (exec (.tick false) s = .next { s with
      regs := .scan { r with a12LowRun := min (r.a12LowRun + 1) f }, result := .nothing }) ∧
    (r.a12LowRun < f → exec (.tick true) s = .next { s with
      regs := .scan { r with a12LowRun := 0 }, result := .nothing }) ∧
    (f ≤ r.a12LowRun → (r.irqCounter = 0#8 ∨ r.irqReload = true) → exec (.tick true) s = .next { s with
      regs := .scan { r with
        irqCounter := r.irqLatch
        irqReload := false
        irqPending := r.irqPending || (decide (r.irqLatch = 0#8) && r.irqEnable && s.params.scanIrqOnReloadZero)
        a12LowRun := 0 }
      result := .nothing }) ∧
    (f ≤ r.a12LowRun → r.irqCounter ≠ 0#8 → r.irqReload = false → exec (.tick true) s = .next { s with
      regs := .scan { r with
        irqCounter := BitVec.ofNat 8 (r.irqCounter.toNat - 1)
        irqPending := r.irqPending || (decide (r.irqCounter.toNat = 1) && r.irqEnable)
        a12LowRun := 0 }
      result := .nothing })

/-- `A12CLK` is exactly one counter clock from any SCAN state and for every filter length (R90, R221). -/
def Obligations.A12ClkIsOneCounterClock : Prop :=
  ∀ (s : State) (r : ScanRegs), s.regs = .scan r →
    runScript s (scriptA12CLK s.params) = .next { s with
      regs := .scan { clockCounter s.params r with a12LowRun := 0 }
      pending := [], pos := s.pos + s.params.a12Filter + 1, result := .nothing }

/-- The sequencer's law (vector E6 and R224, the spec's own inference): program latch `L ≥ 1`, request a reload and enable; one `A12CLK`
loads `L`, and after `k ≤ L` more the counter is `L − k` and the IRQ is pending exactly when `k = L`: at the `L`-th
clock and not before. For every parameter value and every SCAN state with nothing pending. -/
def Obligations.ProgrammedCounterRaisesAtTheLthClock : Prop :=
  ∀ (s : State) (r : ScanRegs) (latch : Byte) (k : Nat), s.regs = .scan r → r.irqPending = false →
    1 ≤ latch.toNat → k ≤ latch.toNat →
    ∃ t r', runScript s
        ([scriptCW 0xC000#16 latch, scriptCW 0xC001#16 0x00#8, scriptCW 0xE001#16 0x00#8] ++
          (List.replicate (k + 1) (scriptA12CLK s.params)).flatten) = .next t ∧
      t.regs = .scan r' ∧ r'.irqCounter.toNat = latch.toNat - k ∧ r'.irqPending = decide (k = latch.toNat) ∧
      r'.irqEnable = true ∧ r'.irqReload = false ∧ r'.irqLatch = latch

/-- With latch and counter 0 no sequence of ticks ever raises the IRQ by default (R222, R224). -/
def Obligations.ZeroLatchNeverRaisesByDefault : Prop :=
  ∀ (s : State) (r : ScanRegs) (levels : List Bool), s.regs = .scan r → s.params.scanIrqOnReloadZero = false →
    r.irqLatch = 0#8 → r.irqCounter = 0#8 → r.irqPending = false →
    ∃ t, runScript s (levels.map scriptTick) = .next t ∧ irqLevel t = false

/-! ### The interrupt, as seen by the host -/

/-- `IRQ_PENDING` returns the pending flag of SCAN, false in SWAP and SERIAL, and changes nothing (R247, R274). -/
def Obligations.IrqQueryReturnsTheLevel : Prop :=
  ∀ s : State,
    (∀ r, s.regs = .scan r → exec .irqPending s = .next { s with result := .flag r.irqPending }) ∧
    ((∀ r, s.regs ≠ .scan r) → exec .irqPending s = .next { s with result := .flag false })

/-- `IRQ_ACK` clears the pending flag of SCAN and nothing else; nothing in SWAP and SERIAL (R248; that nothing else
changes is the spec's decision D29). -/
def Obligations.IrqAckClearsPendingOnly : Prop :=
  ∀ s : State,
    (∀ r, s.regs = .scan r →
      exec .irqAck s = .next { s with regs := .scan { r with irqPending := false }, result := .nothing }) ∧
    ((∀ r, s.regs ≠ .scan r) → exec .irqAck s = .next { s with result := .nothing })

/-- The IRQ rises only at a counter clock, a qualifying high tick of an enabled SCAN instance, or by RESTORE (R42,
R276, R252). -/
def Obligations.IrqRisesOnlyAtACounterClock : Prop :=
  ∀ (i : Instr) (s t : State), exec i s = .next t → irqLevel s = false → irqLevel t = true →
    (i = .tick true ∧ ∃ r, s.regs = .scan r ∧ s.params.a12Filter ≤ r.a12LowRun ∧ r.irqEnable = true) ∨
      ∃ b, i = .restore b

/-- A pending IRQ stays pending, whatever the clocks do, until IRQ_ACK, the disable write, RESET, or RESTORE of a
blob whose pending bit is 0; and a disabled counter counts exactly as an enabled one (R223). -/
def Obligations.PendingIrqStaysUntilCleared : Prop :=
  (∀ (i : Instr) (s t : State), exec i s = .next t → irqLevel s = true → irqLevel t = false →
    i = .irqAck ∨ (∃ a v, i = .cwScanIrqDisable a v) ∨ i = .reset ∨
      ∃ b, i = .restore b ∧ (blobByte b 14).getLsbD 2 = false) ∧
  ∀ (s : State) (r : ScanRegs) (level : Bool), s.regs = .scan r →
    ∃ t t' r₁ r₂, exec (.tick level) s = .next t ∧ t.regs = .scan r₁ ∧
      exec (.tick level) { s with regs := .scan { r with irqEnable := false } } = .next t' ∧ t'.regs = .scan r₂ ∧
      r₁.irqCounter = r₂.irqCounter

/-- No CPU write sets the counter or the low run: they change only at a tick, RESET or RESTORE, and the counter only
at a high one (R39, R43; the spec's decisions D25 and D27). -/
def Obligations.CounterChangesOnlyAtTicksAndReset : Prop :=
  ∀ (i : Instr) (s t : State) (r r' : ScanRegs), exec i s = .next t → s.regs = .scan r → t.regs = .scan r' →
    i ≠ .reset → (∀ b, i ≠ .restore b) →
    (i ≠ .tick true → r'.irqCounter = r.irqCounter) ∧ ((∀ l, i ≠ .tick l) → r'.a12LowRun = r.a12LowRun)

/-! ### Mirroring, construction, reset and snapshot -/

/-- `GET_MIRRORING` returns the code of R250 and changes nothing: the header's mode in SWAP (R143), `control[1:0]` in
SERIAL (R162), the mirroring bit or FourScreen in SCAN (R193). The fields and codes are the spec's decisions D15, D23
and D32. -/
def Obligations.MirroringQueryReturnsTheCode : Prop :=
  ∀ (s : State) (code : Nat),
    ((∃ r, s.regs = .swap r) ∧ code = (match s.header.mirroringFlag with
        | .horizontal => 0 | .vertical => 1 | .fourScreen => 4) ∨
      (∃ r, s.regs = .serial r ∧ (r.control.toNat % 4, code) ∈ [(0, 2), (1, 3), (2, 1), (3, 0)]) ∨
      (∃ r, s.regs = .scan r ∧ s.header.mirroringFlag = .fourScreen ∧ code = 4) ∨
      (∃ r, s.regs = .scan r ∧ s.header.mirroringFlag ≠ .fourScreen ∧
        (r.mirroring, code) ∈ [(0#1, 1), (1#1, 0)])) →
    exec .getMirroring s = .next { s with result := .mirroring (BitVec.ofNat 3 code) }

/-- `create` fails for an unknown mapper id, else for the first check of R241 that fails, and records which (R240,
R241, R270). The ids and the recorded numbers are the spec's decisions D1 and D31. -/
def Obligations.CreateRejectsInOrder : Prop :=
  ∀ (p : Params) (id : Nat) (h : Header) (prg chr : List Byte) (d d' : Nat → Byte),
    (id ∉ [1, 2, 4] → create p id h prg chr d d' = .fault (.unsupportedMapper id)) ∧
    (id ∈ [1, 2, 4] → h.prgBanks16 = 0 → create p id h prg chr d d' = .fault (.bankCountInconsistent 1)) ∧
    (id = 2 → h.prgBanks16 = 1 → create p id h prg chr d d' = .fault (.bankCountInconsistent 2)) ∧
    (id ∈ [1, 2, 4] → 1 ≤ h.prgBanks16 → (id = 2 → 2 ≤ h.prgBanks16) → prg.length ≠ h.prgBanks16 * 16384 →
      create p id h prg chr d d' = .fault (.bankCountInconsistent 3)) ∧
    (id ∈ [1, 2, 4] → 1 ≤ h.prgBanks16 → (id = 2 → 2 ≤ h.prgBanks16) → prg.length = h.prgBanks16 * 16384 →
      chr.length ≠ h.chrBanks8 * 8192 → create p id h prg chr d d' = .fault (.bankCountInconsistent 4))

/-- A `create` that passes its checks gives a well-formed instance of the selected variant that holds the images and
the draws, and that RESET leaves as it is (R240, R242, R296; the spec's decisions D1 and D34; a fresh state's
`pending`, `pos`, `result` and `draws` are the model's own fields, log 4 to 7). -/
def Obligations.CreateMakesTheResetInstance : Prop :=
  ∀ (p : Params) (id : Nat) (v : Variant) (h : Header) (prg chr : List Byte) (d d' : Nat → Byte),
    paramsWf p = true → (id, v) ∈ [(1, Variant.serial), (2, Variant.swap), (4, Variant.scan)] →
    1 ≤ h.prgBanks16 → (id = 2 → 2 ≤ h.prgBanks16) → prg.length = h.prgBanks16 * 16384 →
    chr.length = h.chrBanks8 * 8192 →
    ∃ s, create p id h prg chr d d' = .next s ∧ s.wf = true ∧ s.variant = v ∧ s.params = p ∧ s.header = h ∧
      exec .reset s = .next s ∧
      (∀ o (ho : o < prg.length), regionRead s .prgRom o = prg[o]) ∧
      (∀ o, o < 8192 → regionRead s .prgRam o = d o) ∧
      (∀ o (ho : o < chr.length), regionRead s .chr o = chr[o]) ∧
      (h.chrBanks8 = 0 → ∀ o, o < 8192 → regionRead s .chr o = d' o)

/-- RESET gives every register of the variant its reset value (R290, R293 to R295) and changes nothing else: no region
byte, no parameter (R292). The values of SERIAL and SCAN are the spec's decisions D19 and D28. -/
def Obligations.ResetTakesEveryRegisterToItsResetValue : Prop :=
  ∀ s : State,
    (∀ r, s.regs = .swap r →
      exec .reset s = .next { s with regs := .swap { prgBank := 0x00#8 }, result := .nothing }) ∧
    (∀ r, s.regs = .serial r → exec .reset s = .next { s with
      regs := .serial
        { shiftRegister := 0#5, writeCount := 0, control := 0x0C#5, prg := 0#5, chr0 := 0#5, chr1 := 0#5 }
      result := .nothing }) ∧
    (∀ r, s.regs = .scan r → exec .reset s = .next { s with
      regs := .scan
        { bankSelect := 0x00#8, bankRegisters := s.params.scanResetBanks
          mirroring := if s.header.mirroringFlag = .horizontal then 1#1 else 0#1
          prgRamProtect := 0x80#8, irqLatch := 0x00#8, irqCounter := 0x00#8
          irqEnable := false, irqReload := false, irqPending := false, a12LowRun := 0 }
      result := .nothing })

/-- RESET touches no region byte, and a second RESET gives the same state (R291, R292; the spec's decision D11). -/
def Obligations.ResetKeepsRegionsAndIsIdempotent : Prop :=
  ∀ s : State, ∃ t, exec .reset s = .next t ∧ exec .reset t = .next t ∧
    ∀ R o, regionRead t R o = regionRead s R o

/-- `SAVE` returns the blob, byte by byte as R251 lists it, and changes nothing else. The byte layout is the spec's
choice (D30). -/
def Obligations.SaveReturnsTheBlob : Prop :=
  ∀ s : State,
    (∀ r, s.regs = .swap r → exec .save s = .next { s with result := .blob [0x02#8, r.prgBank] }) ∧
    (∀ r, s.regs = .serial r → exec .save s = .next { s with
      result := .blob
        [0x01#8, BitVec.ofNat 8 r.shiftRegister.toNat, BitVec.ofNat 8 r.writeCount, BitVec.ofNat 8 r.control.toNat,
          BitVec.ofNat 8 r.prg.toNat, BitVec.ofNat 8 r.chr0.toNat, BitVec.ofNat 8 r.chr1.toNat] }) ∧
    (∀ r, s.regs = .scan r → exec .save s = .next { s with
      result := .blob
        ([0x04#8, r.bankSelect] ++ r.bankRegisters.toList ++
          [BitVec.ofNat 8 r.mirroring.toNat, r.prgRamProtect, r.irqLatch, r.irqCounter,
          BitVec.ofNat 8 (r.irqEnable.toNat + 2 * r.irqReload.toNat + 4 * r.irqPending.toNat),
          BitVec.ofNat 8 r.a12LowRun]) })

/-- `RESTORE` of a SWAP or SERIAL instance: a blob with the right tag, length and field ranges sets every register
and nothing else; any other blob is refused (R252; the layout and the refusal are the spec's decision D30). -/
def Obligations.RestoreLoadsOrRefusesSwapAndSerial : Prop :=
  ∀ (s : State) (b : Blob),
    (∀ r, s.regs = .swap r →
      (∀ x, b = [0x02#8, x] →
        exec (.restore b) s = .next { s with regs := .swap { prgBank := x }, result := .nothing }) ∧
      ((∀ x, b ≠ [0x02#8, x]) → exec (.restore b) s = .refused .badBlob)) ∧
    (∀ r, s.regs = .serial r →
      (∀ sh wc c p c0 c1 : Byte, b = [0x01#8, sh, wc, c, p, c0, c1] →
        sh.toNat < 32 → wc.toNat ≤ 4 → c.toNat < 32 → p.toNat < 32 → c0.toNat < 32 → c1.toNat < 32 →
        exec (.restore b) s = .next { s with
          regs := .serial
            { shiftRegister := BitVec.ofNat 5 sh.toNat, writeCount := wc.toNat
              control := BitVec.ofNat 5 c.toNat, prg := BitVec.ofNat 5 p.toNat
              chr0 := BitVec.ofNat 5 c0.toNat, chr1 := BitVec.ofNat 5 c1.toNat }
          result := .nothing }) ∧
      ((∀ sh wc c p c0 c1 : Byte, b = [0x01#8, sh, wc, c, p, c0, c1] →
          ¬ (sh.toNat < 32 ∧ wc.toNat ≤ 4 ∧ c.toNat < 32 ∧ p.toNat < 32 ∧ c0.toNat < 32 ∧ c1.toNat < 32)) →
        exec (.restore b) s = .refused .badBlob))

/-- `RESTORE` of a SCAN instance: a blob with the right tag, length and field ranges sets every register and nothing
else; any other blob is refused (R252; the layout and the refusal are the spec's decision D30). -/
def Obligations.RestoreLoadsOrRefusesScan : Prop :=
  ∀ (s : State) (r : ScanRegs) (b : Blob), s.regs = .scan r →
    (∀ (bs m pr la co fl lr : Byte) (banks : Vector Byte 8),
      b = [0x04#8, bs] ++ banks.toList ++ [m, pr, la, co, fl, lr] →
      m.toNat ≤ 1 → fl.toNat < 8 → lr.toNat ≤ s.params.a12Filter →
      exec (.restore b) s = .next { s with
        regs := .scan
          { bankSelect := bs, bankRegisters := banks, mirroring := BitVec.ofNat 1 m.toNat, prgRamProtect := pr
            irqLatch := la, irqCounter := co, irqEnable := fl.getLsbD 0, irqReload := fl.getLsbD 1
            irqPending := fl.getLsbD 2, a12LowRun := lr.toNat }
        result := .nothing }) ∧
    ((∀ (bs m pr la co fl lr : Byte) (banks : Vector Byte 8),
        b = [0x04#8, bs] ++ banks.toList ++ [m, pr, la, co, fl, lr] →
        ¬ (m.toNat ≤ 1 ∧ fl.toNat < 8 ∧ lr.toNat ≤ s.params.a12Filter)) →
      exec (.restore b) s = .refused .badBlob)

/-- A saved blob restored to any instance of the same variant and filter length brings back every register and leaves
everything else, the regions included; restored to the state it was saved from, it gives that state (R253). -/
def Obligations.SnapshotRoundTrip : Prop :=
  ∀ (s s' t : State) (b : Blob), s.wf = true → exec .save s = .next s' → s'.result = .blob b →
    t.variant = s.variant → t.params = s.params →
    exec (.restore b) t = .next { t with regs := s.regs, result := .nothing }

/-! ### Rules about the whole machine -/

/-- Every step keeps the instance well formed: `writeCount` in 0..4, `a12LowRun` in 0..`A12_FILTER`, every region
canonical and inside its size, the header and the parameters legal (R29, R43, R23, R7, R241). -/
def Obligations.EveryStepKeepsTheInstanceWellFormed : Prop :=
  ∀ s t : State, s.wf = true → step s = .next t → t.wf = true

/-- The state after reset is well formed. -/
def Obligations.ResetStateIsWellFormed : Prop := State.reset.wf = true

/-- No transaction changes the variant, the parameters, the header, PRG-ROM or CHR-ROM, nor the host's script (R3, R24,
D38). -/
def Obligations.NoTransactionChangesTheCartridge : Prop :=
  ∀ (i : Instr) (s t : State), exec i s = .next t →
    t.variant = s.variant ∧ t.params = s.params ∧ t.header = s.header ∧ t.prgRom = s.prgRom ∧
      (s.header.chrBanks8 ≠ 0 → t.chr = s.chr) ∧ t.pending = s.pending ∧ t.pos = s.pos

/-- Only `CW.PRGRAM` and `PW.CHR` store: every other transaction leaves every byte of every region. Reads, queries and
stores change no register (R66; the spec's decisions D33 and D27). -/
def Obligations.ReadsAndQueriesHaveNoSideEffect : Prop :=
  ∀ (i : Instr) (s t : State), exec i s = .next t →
    ((∀ a v, i ≠ .cwPrgRam a v) → (∀ a v, i ≠ .pwChr a v) → ∀ R o, regionRead t R o = regionRead s R o) ∧
    (i.rowVariant = none → (∀ l, i ≠ .tick l) → i ≠ .reset → i ≠ .irqAck → (∀ b, i ≠ .restore b) → t.regs = s.regs)
end

