-- ==== Sys2Proof/Laws/Encoding.lean ====
section
/-! SUPPORT. The fields of a composed transaction word (30_encoding.md R81): each field reads back what was put in,
and a word is its four fields. -/

namespace Sys2Proof

theorem getLsbD_fields (k z : BitVec 4) (a : Addr) (d : Byte) (i : Nat) :
    BitVec.getLsbD (w := 32) (k ++ z ++ a ++ d) i =
      if i < 8 then d.getLsbD i
      else if i < 24 then a.getLsbD (i - 8)
      else if i < 28 then z.getLsbD (i - 24)
      else k.getLsbD (i - 28) := by
  refine (BitVec.getLsbD_append (x := k ++ z ++ a) (y := d) (i := i)).trans ?_
  split
  · rfl
  · refine (BitVec.getLsbD_append (x := k ++ z) (y := a) (i := i - 8)).trans ?_
    by_cases h : i < 24
    · rw [if_pos (by omega), if_pos h]
    · rw [if_neg (by omega), if_neg h]
      refine (BitVec.getLsbD_append (x := k) (y := z) (i := i - 8 - 16)).trans ?_
      by_cases h' : i < 28
      · rw [if_pos (by omega), if_pos h']; congr 1
      · rw [if_neg (by omega), if_neg h']; congr 1

theorem getLsbD_wordOf (k : BitVec 4) (a : Addr) (d : Byte) (i : Nat) :
    (wordOf k a d).getLsbD i =
      if i < 8 then d.getLsbD i
      else if i < 24 then a.getLsbD (i - 8)
      else if i < 28 then false
      else k.getLsbD (i - 28) := by
  refine (getLsbD_fields k 0#4 a d i).trans ?_
  simp

@[simp] theorem kindOf_wordOf (k : BitVec 4) (a : Addr) (d : Byte) : kindOf (wordOf k a d) = k := by
  ext i hi
  simp only [kindOf, BitVec.getElem_extractLsb', getLsbD_wordOf]
  rw [if_neg (by omega), if_neg (by omega), if_neg (by omega), Nat.add_sub_cancel_left, BitVec.getLsbD_eq_getElem]

@[simp] theorem zOf_wordOf (k : BitVec 4) (a : Addr) (d : Byte) : zOf (wordOf k a d) = 0#4 := by
  ext i hi
  simp only [zOf, BitVec.getElem_extractLsb', getLsbD_wordOf]
  rw [if_neg (by omega), if_neg (by omega), if_pos (by omega), BitVec.getElem_zero]

@[simp] theorem addrOf_wordOf (k : BitVec 4) (a : Addr) (d : Byte) : addrOf (wordOf k a d) = a := by
  ext i hi
  simp only [addrOf, BitVec.getElem_extractLsb', getLsbD_wordOf]
  rw [if_neg (by omega), if_pos (by omega), Nat.add_sub_cancel_left, BitVec.getLsbD_eq_getElem]

@[simp] theorem dataOf_wordOf (k : BitVec 4) (a : Addr) (d : Byte) : dataOf (wordOf k a d) = d := by
  ext i hi
  simp only [dataOf, BitVec.getElem_extractLsb', getLsbD_wordOf]
  rw [if_pos (by omega), Nat.zero_add, BitVec.getLsbD_eq_getElem]

/-- A word is its four fields (R81). -/
theorem word_eq_fields (w : Word) : w = kindOf w ++ zOf w ++ addrOf w ++ dataOf w := by
  refine BitVec.eq_of_getLsbD_eq fun i hi => ?_
  rw [getLsbD_fields]
  simp only [kindOf, zOf, addrOf, dataOf, BitVec.getLsbD_extractLsb']
  split
  · simp [*]
  · split
    · rw [show 8 + (i - 8) = i by omega]; simp; omega
    · split
      · rw [show 24 + (i - 24) = i by omega]; simp; omega
      · rw [show 28 + (i - 28) = i by omega]; simp; omega

/-- A word whose reserved field is 0 is composed of its kind, address and data (R81, R82). -/
theorem word_eq_wordOf {w : Word} (h : zOf w = 0#4) : w = wordOf (kindOf w) (addrOf w) (dataOf w) := by
  have hw := word_eq_fields w
  rw [h] at hw
  exact hw

/-- Masking a word masks each of its fields. -/
theorem fields_and (k z k' z' : BitVec 4) (a a' : Addr) (d d' : Byte) :
    ((k ++ z ++ a ++ d : Word) &&& (k' ++ z' ++ a' ++ d' : Word)) =
      ((k &&& k') ++ (z &&& z') ++ (a &&& a') ++ (d &&& d') : Word) := by
  refine BitVec.eq_of_getLsbD_eq fun i hi => ?_
  rw [BitVec.getLsbD_and, getLsbD_fields, getLsbD_fields, getLsbD_fields]
  simp only [BitVec.getLsbD_and]
  split <;> [rfl; (split <;> [rfl; (split <;> rfl)])]

/-- Two words agree exactly when their fields do. -/
theorem fields_eq_iff {k z k' z' : BitVec 4} {a a' : Addr} {d d' : Byte} :
    ((k ++ z ++ a ++ d : Word) = (k' ++ z' ++ a' ++ d' : Word)) ↔ k = k' ∧ z = z' ∧ a = a' ∧ d = d' := by
  constructor
  · intro h
    have bit (i : Nat) := congrArg (fun w : Word => w.getLsbD i) h
    simp only [getLsbD_fields] at bit
    refine ⟨?_, ?_, ?_, ?_⟩ <;> refine BitVec.eq_of_getLsbD_eq fun i hi => ?_
    · have hb := bit (i + 28)
      rwa [if_neg (by omega), if_neg (by omega), if_neg (by omega), if_neg (by omega), if_neg (by omega),
        if_neg (by omega), Nat.add_sub_cancel] at hb
    · have hb := bit (i + 24)
      rwa [if_neg (by omega), if_neg (by omega), if_pos (by omega), if_neg (by omega), if_neg (by omega),
        if_pos (by omega), Nat.add_sub_cancel] at hb
    · have hb := bit (i + 8)
      rwa [if_neg (by omega), if_pos (by omega), if_neg (by omega), if_pos (by omega), Nat.add_sub_cancel] at hb
    · have hb := bit i
      rwa [if_pos (by omega), if_pos (by omega)] at hb
  · rintro ⟨rfl, rfl, rfl, rfl⟩
    rfl

/-- The mask test of a row, field by field (R84): each field of the word, masked, is the row's. -/
theorem and_eq_iff_fields (w mask pattern : Word) :
    (w &&& mask = pattern) ↔
      kindOf w &&& kindOf mask = kindOf pattern ∧ zOf w &&& zOf mask = zOf pattern ∧
        addrOf w &&& addrOf mask = addrOf pattern ∧ dataOf w &&& dataOf mask = dataOf pattern := by
  have hw : w &&& mask =
      ((kindOf w &&& kindOf mask) ++ (zOf w &&& zOf mask) ++ (addrOf w &&& addrOf mask) ++
        (dataOf w &&& dataOf mask) : Word) :=
    (congrArg₂ (fun x y : Word => x &&& y) (word_eq_fields w) (word_eq_fields mask)).trans (fields_and ..)
  have hp := word_eq_fields pattern
  constructor
  · intro h
    exact fields_eq_iff.1 (hw.symm.trans (h.trans hp))
  · intro h
    exact hw.trans ((fields_eq_iff.2 h).trans hp.symm)

/-! ### The address and data masks of the opcode table, as ranges -/

/-- Masking away the low `k` bits rounds down to a multiple of `2 ^ k`. -/
theorem toNat_and_high {n : Nat} (a m : BitVec n) (k : Nat) (hm : m = BitVec.allOnes n >>> k <<< k) :
    (a &&& m).toNat = a.toNat / 2 ^ k * 2 ^ k := by
  have h : a &&& m = a >>> k <<< k := by
    subst hm
    refine BitVec.eq_of_getLsbD_eq fun i hi => ?_
    simp only [BitVec.getLsbD_and, BitVec.getLsbD_shiftLeft, BitVec.getLsbD_ushiftRight]
    by_cases hk : i < k
    · simp [hk]
    · simp [hi, hk, show k + (i - k) = i by omega]
  rw [h, BitVec.toNat_shiftLeft, BitVec.toNat_ushiftRight, Nat.shiftLeft_eq, Nat.shiftRight_eq_div_pow]
  exact Nat.mod_eq_of_lt (lt_of_le_of_lt (Nat.div_mul_le_self ..) a.isLt)

theorem addr_and_ffe0 (a : Addr) (p : Addr) :
    (a &&& 0xFFE0#16 = p) ↔ p.toNat = a.toNat / 32 * 32 := by
  rw [BitVec.toNat_eq, toNat_and_high a _ 5 (by decide)]
  exact eq_comm

theorem addr_and_e000 (a : Addr) (p : Addr) :
    (a &&& 0xE000#16 = p) ↔ p.toNat = a.toNat / 8192 * 8192 := by
  rw [BitVec.toNat_eq, toNat_and_high a _ 13 (by decide)]
  exact eq_comm

theorem addr_and_8000 (a : Addr) (p : Addr) :
    (a &&& 0x8000#16 = p) ↔ p.toNat = a.toNat / 32768 * 32768 := by
  rw [BitVec.toNat_eq, toNat_and_high a _ 15 (by decide)]
  exact eq_comm

/-- The mask of the SCAN rows keeps `A[15:13]` and `A[0]` (R85). -/
theorem addr_and_e001 (a : Addr) (p : Addr) :
    (a &&& 0xE001#16 = p) ↔ p.toNat = a.toNat / 8192 * 8192 + a.toNat % 2 := by
  have h : a &&& 0xE001#16 = (a &&& 0xE000#16) ||| (a &&& 0x0001#16) := by
    rw [← BitVec.and_or_distrib_left]; rfl
  have hlow : (a &&& 0x0001#16).toNat = a.toNat % 2 := by
    rw [BitVec.toNat_and]
    exact Nat.and_one_is_mod _
  have hhigh : (a &&& 0xE000#16).toNat = a.toNat / 8192 * 8192 := toNat_and_high a _ 13 (by decide)
  rw [BitVec.toNat_eq, h, BitVec.toNat_or, hhigh, hlow,
    show a.toNat / 8192 * 8192 = 2 ^ 13 * (a.toNat / 8192) by omega,
    ← Nat.two_pow_add_eq_or_of_lt (show a.toNat % 2 < 2 ^ 13 by omega), eq_comm]

/-- The mask of the SERIAL rows keeps `D[7]` (R85). -/
theorem data_and_80 (d : Byte) (p : Byte) : (d &&& 0x80#8 = p) ↔ p.toNat = d.toNat / 128 * 128 := by
  rw [BitVec.toNat_eq, toNat_and_high d _ 7 (by decide)]
  exact eq_comm

/-- The mask of TICK keeps `D[7:1]` (R82). -/
theorem data_and_fe (d : Byte) (p : Byte) : (d &&& 0xFE#8 = p) ↔ p.toNat = d.toNat / 2 * 2 := by
  rw [BitVec.toNat_eq, toNat_and_high d _ 1 (by decide)]
  exact eq_comm

end Sys2Proof
end

