-- ==== Sys2Proof/Laws/Decode.lean ====
section
/-! SUPPORT. The decoder as arithmetic on the fields of a word: one lemma per mask of the opcode table, and `decode`
as a chain of range tests, which proofs cite instead of unfolding the table. -/

namespace Sys2Proof

theorem bits_and_allOnes_iff {n : Nat} (x p m : BitVec n) (hm : m = BitVec.allOnes n) :
    (x &&& m = p) ↔ p.toNat = x.toNat := by
  subst hm
  rw [BitVec.and_allOnes, BitVec.toNat_eq]
  exact eq_comm

theorem addr_and_0001 (a p : Addr) : (a &&& 0x0001#16 = p) ↔ p.toNat = a.toNat % 2 := by
  have h : (a &&& 0x0001#16).toNat = a.toNat % 2 := by
    rw [BitVec.toNat_and]
    exact Nat.and_one_is_mod _
  rw [BitVec.toNat_eq, h]
  exact eq_comm

theorem bits_and_zero_iff {n : Nat} (x p m : BitVec n) (hm : m = 0#n) : (x &&& m = p) ↔ p.toNat = 0 := by
  subst hm
  rw [BitVec.and_zero, BitVec.toNat_eq, BitVec.toNat_ofNat, Nat.zero_mod]
  exact eq_comm

theorem mask_ffffe0ff (w p : Word) :
    (w &&& 0xffffe0ff#32 = p) ↔ (kindOf p).toNat = (kindOf w).toNat ∧ (zOf p).toNat = (zOf w).toNat ∧
      (addrOf p).toNat = (addrOf w).toNat / 32 * 32 ∧ (dataOf p).toNat = (dataOf w).toNat := by
  rw [and_eq_iff_fields]
  exact and_congr (bits_and_allOnes_iff _ _ _ rfl) (and_congr (bits_and_allOnes_iff _ _ _ rfl)
    (and_congr (addr_and_ffe0 _ _) (bits_and_allOnes_iff _ _ _ rfl)))

theorem mask_ffffe000 (w p : Word) :
    (w &&& 0xffffe000#32 = p) ↔ (kindOf p).toNat = (kindOf w).toNat ∧ (zOf p).toNat = (zOf w).toNat ∧
      (addrOf p).toNat = (addrOf w).toNat / 32 * 32 ∧ (dataOf p).toNat = 0 := by
  rw [and_eq_iff_fields]
  exact and_congr (bits_and_allOnes_iff _ _ _ rfl) (and_congr (bits_and_allOnes_iff _ _ _ rfl)
    (and_congr (addr_and_ffe0 _ _) (bits_and_zero_iff _ _ _ rfl)))

theorem mask_ffe000ff (w p : Word) :
    (w &&& 0xffe000ff#32 = p) ↔ (kindOf p).toNat = (kindOf w).toNat ∧ (zOf p).toNat = (zOf w).toNat ∧
      (addrOf p).toNat = (addrOf w).toNat / 8192 * 8192 ∧ (dataOf p).toNat = (dataOf w).toNat := by
  rw [and_eq_iff_fields]
  exact and_congr (bits_and_allOnes_iff _ _ _ rfl) (and_congr (bits_and_allOnes_iff _ _ _ rfl)
    (and_congr (addr_and_e000 _ _) (bits_and_allOnes_iff _ _ _ rfl)))

theorem mask_ffe00000 (w p : Word) :
    (w &&& 0xffe00000#32 = p) ↔ (kindOf p).toNat = (kindOf w).toNat ∧ (zOf p).toNat = (zOf w).toNat ∧
      (addrOf p).toNat = (addrOf w).toNat / 8192 * 8192 ∧ (dataOf p).toNat = 0 := by
  rw [and_eq_iff_fields]
  exact and_congr (bits_and_allOnes_iff _ _ _ rfl) (and_congr (bits_and_allOnes_iff _ _ _ rfl)
    (and_congr (addr_and_e000 _ _) (bits_and_zero_iff _ _ _ rfl)))

theorem mask_ff8000ff (w p : Word) :
    (w &&& 0xff8000ff#32 = p) ↔ (kindOf p).toNat = (kindOf w).toNat ∧ (zOf p).toNat = (zOf w).toNat ∧
      (addrOf p).toNat = (addrOf w).toNat / 32768 * 32768 ∧ (dataOf p).toNat = (dataOf w).toNat := by
  rw [and_eq_iff_fields]
  exact and_congr (bits_and_allOnes_iff _ _ _ rfl) (and_congr (bits_and_allOnes_iff _ _ _ rfl)
    (and_congr (addr_and_8000 _ _) (bits_and_allOnes_iff _ _ _ rfl)))

theorem mask_fffffffe (w p : Word) :
    (w &&& 0xfffffffe#32 = p) ↔ (kindOf p).toNat = (kindOf w).toNat ∧ (zOf p).toNat = (zOf w).toNat ∧
      (addrOf p).toNat = (addrOf w).toNat ∧ (dataOf p).toNat = (dataOf w).toNat / 2 * 2 := by
  rw [and_eq_iff_fields]
  exact and_congr (bits_and_allOnes_iff _ _ _ rfl) (and_congr (bits_and_allOnes_iff _ _ _ rfl)
    (and_congr (bits_and_allOnes_iff _ _ _ rfl) (data_and_fe _ _)))

theorem mask_ffffffff (w p : Word) :
    (w &&& 0xffffffff#32 = p) ↔ (kindOf p).toNat = (kindOf w).toNat ∧ (zOf p).toNat = (zOf w).toNat ∧
      (addrOf p).toNat = (addrOf w).toNat ∧ (dataOf p).toNat = (dataOf w).toNat := by
  rw [and_eq_iff_fields]
  exact and_congr (bits_and_allOnes_iff _ _ _ rfl) (and_congr (bits_and_allOnes_iff _ _ _ rfl)
    (and_congr (bits_and_allOnes_iff _ _ _ rfl) (bits_and_allOnes_iff _ _ _ rfl)))

theorem mask_ff800000 (w p : Word) :
    (w &&& 0xff800000#32 = p) ↔ (kindOf p).toNat = (kindOf w).toNat ∧ (zOf p).toNat = (zOf w).toNat ∧
      (addrOf p).toNat = (addrOf w).toNat / 32768 * 32768 ∧ (dataOf p).toNat = 0 := by
  rw [and_eq_iff_fields]
  exact and_congr (bits_and_allOnes_iff _ _ _ rfl) (and_congr (bits_and_allOnes_iff _ _ _ rfl)
    (and_congr (addr_and_8000 _ _) (bits_and_zero_iff _ _ _ rfl)))

theorem mask_ff800080 (w p : Word) :
    (w &&& 0xff800080#32 = p) ↔ (kindOf p).toNat = (kindOf w).toNat ∧ (zOf p).toNat = (zOf w).toNat ∧
      (addrOf p).toNat = (addrOf w).toNat / 32768 * 32768 ∧ (dataOf p).toNat = (dataOf w).toNat / 128 * 128 := by
  rw [and_eq_iff_fields]
  exact and_congr (bits_and_allOnes_iff _ _ _ rfl) (and_congr (bits_and_allOnes_iff _ _ _ rfl)
    (and_congr (addr_and_8000 _ _) (data_and_80 _ _)))

theorem mask_ffe00080 (w p : Word) :
    (w &&& 0xffe00080#32 = p) ↔ (kindOf p).toNat = (kindOf w).toNat ∧ (zOf p).toNat = (zOf w).toNat ∧
      (addrOf p).toNat = (addrOf w).toNat / 8192 * 8192 ∧ (dataOf p).toNat = (dataOf w).toNat / 128 * 128 := by
  rw [and_eq_iff_fields]
  exact and_congr (bits_and_allOnes_iff _ _ _ rfl) (and_congr (bits_and_allOnes_iff _ _ _ rfl)
    (and_congr (addr_and_e000 _ _) (data_and_80 _ _)))

theorem mask_ffe00100 (w p : Word) :
    (w &&& 0xffe00100#32 = p) ↔ (kindOf p).toNat = (kindOf w).toNat ∧ (zOf p).toNat = (zOf w).toNat ∧
      (addrOf p).toNat = (addrOf w).toNat / 8192 * 8192 + (addrOf w).toNat % 2 ∧ (dataOf p).toNat = 0 := by
  rw [and_eq_iff_fields]
  exact and_congr (bits_and_allOnes_iff _ _ _ rfl) (and_congr (bits_and_allOnes_iff _ _ _ rfl)
    (and_congr (addr_and_e001 _ _) (bits_and_zero_iff _ _ _ rfl)))

theorem hits_refusedCrUnrouted (w : Word) :
    (w &&& 0xffffe0ff#32 = 0x00400000#32) ↔ (kindOf w).toNat = 0 ∧ (zOf w).toNat = 0 ∧ 0x4000 ≤ (addrOf w).toNat ∧ (addrOf w).toNat ≤ 0x401F ∧ (dataOf w).toNat = 0 := by
  rw [mask_ffffe0ff, show (kindOf 0x00400000#32).toNat = 0 from rfl, show (zOf 0x00400000#32).toNat = 0 from rfl,
    show (addrOf 0x00400000#32).toNat = 16384 from rfl, show (dataOf 0x00400000#32).toNat = 0 from rfl]
  have := (addrOf w).isLt
  have := (dataOf w).isLt
  omega

theorem hits_refusedCwUnrouted (w : Word) :
    (w &&& 0xffffe000#32 = 0x10400000#32) ↔ (kindOf w).toNat = 1 ∧ (zOf w).toNat = 0 ∧ 0x4000 ≤ (addrOf w).toNat ∧ (addrOf w).toNat ≤ 0x401F := by
  rw [mask_ffffe000, show (kindOf 0x10400000#32).toNat = 1 from rfl, show (zOf 0x10400000#32).toNat = 0 from rfl,
    show (addrOf 0x10400000#32).toNat = 16384 from rfl, show (dataOf 0x10400000#32).toNat = 0 from rfl]
  have := (addrOf w).isLt
  have := (dataOf w).isLt
  omega

theorem hits_crOpen (w : Word) :
    (w &&& 0xffe000ff#32 = 0x00400000#32) ↔ (kindOf w).toNat = 0 ∧ (zOf w).toNat = 0 ∧ 0x4000 ≤ (addrOf w).toNat ∧ (addrOf w).toNat ≤ 0x5FFF ∧ (dataOf w).toNat = 0 := by
  rw [mask_ffe000ff, show (kindOf 0x00400000#32).toNat = 0 from rfl, show (zOf 0x00400000#32).toNat = 0 from rfl,
    show (addrOf 0x00400000#32).toNat = 16384 from rfl, show (dataOf 0x00400000#32).toNat = 0 from rfl]
  have := (addrOf w).isLt
  have := (dataOf w).isLt
  omega

theorem hits_cwOpen (w : Word) :
    (w &&& 0xffe00000#32 = 0x10400000#32) ↔ (kindOf w).toNat = 1 ∧ (zOf w).toNat = 0 ∧ 0x4000 ≤ (addrOf w).toNat ∧ (addrOf w).toNat ≤ 0x5FFF := by
  rw [mask_ffe00000, show (kindOf 0x10400000#32).toNat = 1 from rfl, show (zOf 0x10400000#32).toNat = 0 from rfl,
    show (addrOf 0x10400000#32).toNat = 16384 from rfl, show (dataOf 0x10400000#32).toNat = 0 from rfl]
  have := (addrOf w).isLt
  have := (dataOf w).isLt
  omega

theorem hits_crPrgRam (w : Word) :
    (w &&& 0xffe000ff#32 = 0x00600000#32) ↔ (kindOf w).toNat = 0 ∧ (zOf w).toNat = 0 ∧ 0x6000 ≤ (addrOf w).toNat ∧ (addrOf w).toNat ≤ 0x7FFF ∧ (dataOf w).toNat = 0 := by
  rw [mask_ffe000ff, show (kindOf 0x00600000#32).toNat = 0 from rfl, show (zOf 0x00600000#32).toNat = 0 from rfl,
    show (addrOf 0x00600000#32).toNat = 24576 from rfl, show (dataOf 0x00600000#32).toNat = 0 from rfl]
  have := (addrOf w).isLt
  have := (dataOf w).isLt
  omega

theorem hits_cwPrgRam (w : Word) :
    (w &&& 0xffe00000#32 = 0x10600000#32) ↔ (kindOf w).toNat = 1 ∧ (zOf w).toNat = 0 ∧ 0x6000 ≤ (addrOf w).toNat ∧ (addrOf w).toNat ≤ 0x7FFF := by
  rw [mask_ffe00000, show (kindOf 0x10600000#32).toNat = 1 from rfl, show (zOf 0x10600000#32).toNat = 0 from rfl,
    show (addrOf 0x10600000#32).toNat = 24576 from rfl, show (dataOf 0x10600000#32).toNat = 0 from rfl]
  have := (addrOf w).isLt
  have := (dataOf w).isLt
  omega

theorem hits_crPrgRom (w : Word) :
    (w &&& 0xff8000ff#32 = 0x00800000#32) ↔ (kindOf w).toNat = 0 ∧ (zOf w).toNat = 0 ∧ 0x8000 ≤ (addrOf w).toNat ∧ (dataOf w).toNat = 0 := by
  rw [mask_ff8000ff, show (kindOf 0x00800000#32).toNat = 0 from rfl, show (zOf 0x00800000#32).toNat = 0 from rfl,
    show (addrOf 0x00800000#32).toNat = 32768 from rfl, show (dataOf 0x00800000#32).toNat = 0 from rfl]
  have := (addrOf w).isLt
  have := (dataOf w).isLt
  omega

theorem hits_prChr (w : Word) :
    (w &&& 0xffe000ff#32 = 0x20000000#32) ↔ (kindOf w).toNat = 2 ∧ (zOf w).toNat = 0 ∧ (addrOf w).toNat ≤ 0x1FFF ∧ (dataOf w).toNat = 0 := by
  rw [mask_ffe000ff, show (kindOf 0x20000000#32).toNat = 2 from rfl, show (zOf 0x20000000#32).toNat = 0 from rfl,
    show (addrOf 0x20000000#32).toNat = 0 from rfl, show (dataOf 0x20000000#32).toNat = 0 from rfl]
  have := (addrOf w).isLt
  have := (dataOf w).isLt
  omega

theorem hits_pwChr (w : Word) :
    (w &&& 0xffe00000#32 = 0x30000000#32) ↔ (kindOf w).toNat = 3 ∧ (zOf w).toNat = 0 ∧ (addrOf w).toNat ≤ 0x1FFF := by
  rw [mask_ffe00000, show (kindOf 0x30000000#32).toNat = 3 from rfl, show (zOf 0x30000000#32).toNat = 0 from rfl,
    show (addrOf 0x30000000#32).toNat = 0 from rfl, show (dataOf 0x30000000#32).toNat = 0 from rfl]
  have := (addrOf w).isLt
  have := (dataOf w).isLt
  omega

theorem hits_tick (w : Word) :
    (w &&& 0xfffffffe#32 = 0x40000000#32) ↔ (kindOf w).toNat = 4 ∧ (zOf w).toNat = 0 ∧ (addrOf w).toNat = 0 ∧ (dataOf w).toNat ≤ 1 := by
  rw [mask_fffffffe, show (kindOf 0x40000000#32).toNat = 4 from rfl, show (zOf 0x40000000#32).toNat = 0 from rfl,
    show (addrOf 0x40000000#32).toNat = 0 from rfl, show (dataOf 0x40000000#32).toNat = 0 from rfl]
  have := (addrOf w).isLt
  have := (dataOf w).isLt
  omega

theorem hits_reset (w : Word) :
    (w &&& 0xffffffff#32 = 0x50000000#32) ↔ (kindOf w).toNat = 5 ∧ (zOf w).toNat = 0 ∧ (addrOf w).toNat = 0 ∧ (dataOf w).toNat = 0 := by
  rw [mask_ffffffff, show (kindOf 0x50000000#32).toNat = 5 from rfl, show (zOf 0x50000000#32).toNat = 0 from rfl,
    show (addrOf 0x50000000#32).toNat = 0 from rfl, show (dataOf 0x50000000#32).toNat = 0 from rfl]
  have := (addrOf w).isLt
  have := (dataOf w).isLt
  omega

theorem hits_irqPending (w : Word) :
    (w &&& 0xffffffff#32 = 0x60000000#32) ↔ (kindOf w).toNat = 6 ∧ (zOf w).toNat = 0 ∧ (addrOf w).toNat = 0 ∧ (dataOf w).toNat = 0 := by
  rw [mask_ffffffff, show (kindOf 0x60000000#32).toNat = 6 from rfl, show (zOf 0x60000000#32).toNat = 0 from rfl,
    show (addrOf 0x60000000#32).toNat = 0 from rfl, show (dataOf 0x60000000#32).toNat = 0 from rfl]
  have := (addrOf w).isLt
  have := (dataOf w).isLt
  omega

theorem hits_irqAck (w : Word) :
    (w &&& 0xffffffff#32 = 0x70000000#32) ↔ (kindOf w).toNat = 7 ∧ (zOf w).toNat = 0 ∧ (addrOf w).toNat = 0 ∧ (dataOf w).toNat = 0 := by
  rw [mask_ffffffff, show (kindOf 0x70000000#32).toNat = 7 from rfl, show (zOf 0x70000000#32).toNat = 0 from rfl,
    show (addrOf 0x70000000#32).toNat = 0 from rfl, show (dataOf 0x70000000#32).toNat = 0 from rfl]
  have := (addrOf w).isLt
  have := (dataOf w).isLt
  omega

theorem hits_getMirroring (w : Word) :
    (w &&& 0xffffffff#32 = 0x80000000#32) ↔ (kindOf w).toNat = 8 ∧ (zOf w).toNat = 0 ∧ (addrOf w).toNat = 0 ∧ (dataOf w).toNat = 0 := by
  rw [mask_ffffffff, show (kindOf 0x80000000#32).toNat = 8 from rfl, show (zOf 0x80000000#32).toNat = 0 from rfl,
    show (addrOf 0x80000000#32).toNat = 0 from rfl, show (dataOf 0x80000000#32).toNat = 0 from rfl]
  have := (addrOf w).isLt
  have := (dataOf w).isLt
  omega

theorem hits_save (w : Word) :
    (w &&& 0xffffffff#32 = 0x90000000#32) ↔ (kindOf w).toNat = 9 ∧ (zOf w).toNat = 0 ∧ (addrOf w).toNat = 0 ∧ (dataOf w).toNat = 0 := by
  rw [mask_ffffffff, show (kindOf 0x90000000#32).toNat = 9 from rfl, show (zOf 0x90000000#32).toNat = 0 from rfl,
    show (addrOf 0x90000000#32).toNat = 0 from rfl, show (dataOf 0x90000000#32).toNat = 0 from rfl]
  have := (addrOf w).isLt
  have := (dataOf w).isLt
  omega

theorem hits_restore (w : Word) :
    (w &&& 0xffffffff#32 = 0xa0000000#32) ↔ (kindOf w).toNat = 10 ∧ (zOf w).toNat = 0 ∧ (addrOf w).toNat = 0 ∧ (dataOf w).toNat = 0 := by
  rw [mask_ffffffff, show (kindOf 0xa0000000#32).toNat = 10 from rfl, show (zOf 0xa0000000#32).toNat = 0 from rfl,
    show (addrOf 0xa0000000#32).toNat = 0 from rfl, show (dataOf 0xa0000000#32).toNat = 0 from rfl]
  have := (addrOf w).isLt
  have := (dataOf w).isLt
  omega

theorem hits_cwSwapBank (w : Word) :
    (w &&& 0xff800000#32 = 0x10800000#32) ↔ (kindOf w).toNat = 1 ∧ (zOf w).toNat = 0 ∧ 0x8000 ≤ (addrOf w).toNat := by
  rw [mask_ff800000, show (kindOf 0x10800000#32).toNat = 1 from rfl, show (zOf 0x10800000#32).toNat = 0 from rfl,
    show (addrOf 0x10800000#32).toNat = 32768 from rfl, show (dataOf 0x10800000#32).toNat = 0 from rfl]
  have := (addrOf w).isLt
  have := (dataOf w).isLt
  omega

theorem hits_cwSerialReset (w : Word) :
    (w &&& 0xff800080#32 = 0x10800080#32) ↔ (kindOf w).toNat = 1 ∧ (zOf w).toNat = 0 ∧ 0x8000 ≤ (addrOf w).toNat ∧ 128 ≤ (dataOf w).toNat := by
  rw [mask_ff800080, show (kindOf 0x10800080#32).toNat = 1 from rfl, show (zOf 0x10800080#32).toNat = 0 from rfl,
    show (addrOf 0x10800080#32).toNat = 32768 from rfl, show (dataOf 0x10800080#32).toNat = 128 from rfl]
  have := (addrOf w).isLt
  have := (dataOf w).isLt
  omega

theorem hits_cwSerialCtrl (w : Word) :
    (w &&& 0xffe00080#32 = 0x10800000#32) ↔ (kindOf w).toNat = 1 ∧ (zOf w).toNat = 0 ∧ 0x8000 ≤ (addrOf w).toNat ∧ (addrOf w).toNat ≤ 0x9FFF ∧ (dataOf w).toNat < 128 := by
  rw [mask_ffe00080, show (kindOf 0x10800000#32).toNat = 1 from rfl, show (zOf 0x10800000#32).toNat = 0 from rfl,
    show (addrOf 0x10800000#32).toNat = 32768 from rfl, show (dataOf 0x10800000#32).toNat = 0 from rfl]
  have := (addrOf w).isLt
  have := (dataOf w).isLt
  omega

theorem hits_cwSerialChr0 (w : Word) :
    (w &&& 0xffe00080#32 = 0x10a00000#32) ↔ (kindOf w).toNat = 1 ∧ (zOf w).toNat = 0 ∧ 0xA000 ≤ (addrOf w).toNat ∧ (addrOf w).toNat ≤ 0xBFFF ∧ (dataOf w).toNat < 128 := by
  rw [mask_ffe00080, show (kindOf 0x10a00000#32).toNat = 1 from rfl, show (zOf 0x10a00000#32).toNat = 0 from rfl,
    show (addrOf 0x10a00000#32).toNat = 40960 from rfl, show (dataOf 0x10a00000#32).toNat = 0 from rfl]
  have := (addrOf w).isLt
  have := (dataOf w).isLt
  omega

theorem hits_cwSerialChr1 (w : Word) :
    (w &&& 0xffe00080#32 = 0x10c00000#32) ↔ (kindOf w).toNat = 1 ∧ (zOf w).toNat = 0 ∧ 0xC000 ≤ (addrOf w).toNat ∧ (addrOf w).toNat ≤ 0xDFFF ∧ (dataOf w).toNat < 128 := by
  rw [mask_ffe00080, show (kindOf 0x10c00000#32).toNat = 1 from rfl, show (zOf 0x10c00000#32).toNat = 0 from rfl,
    show (addrOf 0x10c00000#32).toNat = 49152 from rfl, show (dataOf 0x10c00000#32).toNat = 0 from rfl]
  have := (addrOf w).isLt
  have := (dataOf w).isLt
  omega

theorem hits_cwSerialPrg (w : Word) :
    (w &&& 0xffe00080#32 = 0x10e00000#32) ↔ (kindOf w).toNat = 1 ∧ (zOf w).toNat = 0 ∧ 0xE000 ≤ (addrOf w).toNat ∧ (dataOf w).toNat < 128 := by
  rw [mask_ffe00080, show (kindOf 0x10e00000#32).toNat = 1 from rfl, show (zOf 0x10e00000#32).toNat = 0 from rfl,
    show (addrOf 0x10e00000#32).toNat = 57344 from rfl, show (dataOf 0x10e00000#32).toNat = 0 from rfl]
  have := (addrOf w).isLt
  have := (dataOf w).isLt
  omega

theorem hits_cwScanBankSelect (w : Word) :
    (w &&& 0xffe00100#32 = 0x10800000#32) ↔ (kindOf w).toNat = 1 ∧ (zOf w).toNat = 0 ∧ 0x8000 ≤ (addrOf w).toNat ∧ (addrOf w).toNat ≤ 0x9FFF ∧ (addrOf w).toNat % 2 = 0 := by
  rw [mask_ffe00100, show (kindOf 0x10800000#32).toNat = 1 from rfl, show (zOf 0x10800000#32).toNat = 0 from rfl,
    show (addrOf 0x10800000#32).toNat = 32768 from rfl, show (dataOf 0x10800000#32).toNat = 0 from rfl]
  have := (addrOf w).isLt
  have := (dataOf w).isLt
  omega

theorem hits_cwScanBankData (w : Word) :
    (w &&& 0xffe00100#32 = 0x10800100#32) ↔ (kindOf w).toNat = 1 ∧ (zOf w).toNat = 0 ∧ 0x8000 ≤ (addrOf w).toNat ∧ (addrOf w).toNat ≤ 0x9FFF ∧ (addrOf w).toNat % 2 = 1 := by
  rw [mask_ffe00100, show (kindOf 0x10800100#32).toNat = 1 from rfl, show (zOf 0x10800100#32).toNat = 0 from rfl,
    show (addrOf 0x10800100#32).toNat = 32769 from rfl, show (dataOf 0x10800100#32).toNat = 0 from rfl]
  have := (addrOf w).isLt
  have := (dataOf w).isLt
  omega

theorem hits_cwScanMirroring (w : Word) :
    (w &&& 0xffe00100#32 = 0x10a00000#32) ↔ (kindOf w).toNat = 1 ∧ (zOf w).toNat = 0 ∧ 0xA000 ≤ (addrOf w).toNat ∧ (addrOf w).toNat ≤ 0xBFFF ∧ (addrOf w).toNat % 2 = 0 := by
  rw [mask_ffe00100, show (kindOf 0x10a00000#32).toNat = 1 from rfl, show (zOf 0x10a00000#32).toNat = 0 from rfl,
    show (addrOf 0x10a00000#32).toNat = 40960 from rfl, show (dataOf 0x10a00000#32).toNat = 0 from rfl]
  have := (addrOf w).isLt
  have := (dataOf w).isLt
  omega

theorem hits_cwScanPrgRamProtect (w : Word) :
    (w &&& 0xffe00100#32 = 0x10a00100#32) ↔ (kindOf w).toNat = 1 ∧ (zOf w).toNat = 0 ∧ 0xA000 ≤ (addrOf w).toNat ∧ (addrOf w).toNat ≤ 0xBFFF ∧ (addrOf w).toNat % 2 = 1 := by
  rw [mask_ffe00100, show (kindOf 0x10a00100#32).toNat = 1 from rfl, show (zOf 0x10a00100#32).toNat = 0 from rfl,
    show (addrOf 0x10a00100#32).toNat = 40961 from rfl, show (dataOf 0x10a00100#32).toNat = 0 from rfl]
  have := (addrOf w).isLt
  have := (dataOf w).isLt
  omega

theorem hits_cwScanIrqLatch (w : Word) :
    (w &&& 0xffe00100#32 = 0x10c00000#32) ↔ (kindOf w).toNat = 1 ∧ (zOf w).toNat = 0 ∧ 0xC000 ≤ (addrOf w).toNat ∧ (addrOf w).toNat ≤ 0xDFFF ∧ (addrOf w).toNat % 2 = 0 := by
  rw [mask_ffe00100, show (kindOf 0x10c00000#32).toNat = 1 from rfl, show (zOf 0x10c00000#32).toNat = 0 from rfl,
    show (addrOf 0x10c00000#32).toNat = 49152 from rfl, show (dataOf 0x10c00000#32).toNat = 0 from rfl]
  have := (addrOf w).isLt
  have := (dataOf w).isLt
  omega

theorem hits_cwScanIrqReload (w : Word) :
    (w &&& 0xffe00100#32 = 0x10c00100#32) ↔ (kindOf w).toNat = 1 ∧ (zOf w).toNat = 0 ∧ 0xC000 ≤ (addrOf w).toNat ∧ (addrOf w).toNat ≤ 0xDFFF ∧ (addrOf w).toNat % 2 = 1 := by
  rw [mask_ffe00100, show (kindOf 0x10c00100#32).toNat = 1 from rfl, show (zOf 0x10c00100#32).toNat = 0 from rfl,
    show (addrOf 0x10c00100#32).toNat = 49153 from rfl, show (dataOf 0x10c00100#32).toNat = 0 from rfl]
  have := (addrOf w).isLt
  have := (dataOf w).isLt
  omega

theorem hits_cwScanIrqDisable (w : Word) :
    (w &&& 0xffe00100#32 = 0x10e00000#32) ↔ (kindOf w).toNat = 1 ∧ (zOf w).toNat = 0 ∧ 0xE000 ≤ (addrOf w).toNat ∧ (addrOf w).toNat % 2 = 0 := by
  rw [mask_ffe00100, show (kindOf 0x10e00000#32).toNat = 1 from rfl, show (zOf 0x10e00000#32).toNat = 0 from rfl,
    show (addrOf 0x10e00000#32).toNat = 57344 from rfl, show (dataOf 0x10e00000#32).toNat = 0 from rfl]
  have := (addrOf w).isLt
  have := (dataOf w).isLt
  omega

theorem hits_cwScanIrqEnable (w : Word) :
    (w &&& 0xffe00100#32 = 0x10e00100#32) ↔ (kindOf w).toNat = 1 ∧ (zOf w).toNat = 0 ∧ 0xE000 ≤ (addrOf w).toNat ∧ (addrOf w).toNat % 2 = 1 := by
  rw [mask_ffe00100, show (kindOf 0x10e00100#32).toNat = 1 from rfl, show (zOf 0x10e00100#32).toNat = 0 from rfl,
    show (addrOf 0x10e00100#32).toNat = 57345 from rfl, show (dataOf 0x10e00100#32).toNat = 0 from rfl]
  have := (addrOf w).isLt
  have := (dataOf w).isLt
  omega

/-- The first hit of a list of rows, by recursion. -/
def firstHit (v : Variant) (q : Request) : List Row → Except WordRefusal Instr
  | [] => .error (refusalOf q.word)
  | r :: rs => if rowFits r.variant v = true ∧ q.word &&& r.mask = r.pattern then .ok (r.build q) else firstHit v q rs

theorem decode_eq_firstHit (v : Variant) (q : Request) : decode v q = firstHit v q opcodeTable := by
  unfold decode
  induction opcodeTable with
  | nil => rfl
  | cons r rs ih =>
    rw [List.find?_cons, firstHit]
    by_cases h : rowFits r.variant v = true ∧ q.word &&& r.mask = r.pattern
    · have hh : r.hits v q.word = true := by simpa [Row.hits] using h
      simp [hh, h]
    · have hh : r.hits v q.word = false := by
        rw [Bool.eq_false_iff]
        intro hc
        exact h (by simpa [Row.hits] using hc)
      rw [if_neg h, hh]
      exact ih

/-- The decoder as range tests in the order of the opcode table (R84, R85, R86). -/
theorem decode_eq_ranges (v : Variant) (q : Request) : decode v q =
    if (kindOf q.word).toNat = 0 ∧ (zOf q.word).toNat = 0 ∧ 0x4000 ≤ (addrOf q.word).toNat ∧ (addrOf q.word).toNat ≤ 0x401F ∧ (dataOf q.word).toNat = 0 then
      .ok (.refusedCrUnrouted (addrOf q.word))
    else if (kindOf q.word).toNat = 1 ∧ (zOf q.word).toNat = 0 ∧ 0x4000 ≤ (addrOf q.word).toNat ∧ (addrOf q.word).toNat ≤ 0x401F then
      .ok (.refusedCwUnrouted (addrOf q.word) (dataOf q.word))
    else if (kindOf q.word).toNat = 0 ∧ (zOf q.word).toNat = 0 ∧ 0x4000 ≤ (addrOf q.word).toNat ∧ (addrOf q.word).toNat ≤ 0x5FFF ∧ (dataOf q.word).toNat = 0 then
      .ok (.crOpen (addrOf q.word))
    else if (kindOf q.word).toNat = 1 ∧ (zOf q.word).toNat = 0 ∧ 0x4000 ≤ (addrOf q.word).toNat ∧ (addrOf q.word).toNat ≤ 0x5FFF then
      .ok (.cwOpen (addrOf q.word) (dataOf q.word))
    else if (kindOf q.word).toNat = 0 ∧ (zOf q.word).toNat = 0 ∧ 0x6000 ≤ (addrOf q.word).toNat ∧ (addrOf q.word).toNat ≤ 0x7FFF ∧ (dataOf q.word).toNat = 0 then
      .ok (.crPrgRam (addrOf q.word))
    else if (kindOf q.word).toNat = 1 ∧ (zOf q.word).toNat = 0 ∧ 0x6000 ≤ (addrOf q.word).toNat ∧ (addrOf q.word).toNat ≤ 0x7FFF then
      .ok (.cwPrgRam (addrOf q.word) (dataOf q.word))
    else if (kindOf q.word).toNat = 0 ∧ (zOf q.word).toNat = 0 ∧ 0x8000 ≤ (addrOf q.word).toNat ∧ (dataOf q.word).toNat = 0 then
      .ok (.crPrgRom (addrOf q.word))
    else if (kindOf q.word).toNat = 2 ∧ (zOf q.word).toNat = 0 ∧ (addrOf q.word).toNat ≤ 0x1FFF ∧ (dataOf q.word).toNat = 0 then
      .ok (.prChr (addrOf q.word))
    else if (kindOf q.word).toNat = 3 ∧ (zOf q.word).toNat = 0 ∧ (addrOf q.word).toNat ≤ 0x1FFF then
      .ok (.pwChr (addrOf q.word) (dataOf q.word))
    else if (kindOf q.word).toNat = 4 ∧ (zOf q.word).toNat = 0 ∧ (addrOf q.word).toNat = 0 ∧ (dataOf q.word).toNat ≤ 1 then
      .ok (.tick ((dataOf q.word).getLsbD 0))
    else if (kindOf q.word).toNat = 5 ∧ (zOf q.word).toNat = 0 ∧ (addrOf q.word).toNat = 0 ∧ (dataOf q.word).toNat = 0 then
      .ok (.reset)
    else if (kindOf q.word).toNat = 6 ∧ (zOf q.word).toNat = 0 ∧ (addrOf q.word).toNat = 0 ∧ (dataOf q.word).toNat = 0 then
      .ok (.irqPending)
    else if (kindOf q.word).toNat = 7 ∧ (zOf q.word).toNat = 0 ∧ (addrOf q.word).toNat = 0 ∧ (dataOf q.word).toNat = 0 then
      .ok (.irqAck)
    else if (kindOf q.word).toNat = 8 ∧ (zOf q.word).toNat = 0 ∧ (addrOf q.word).toNat = 0 ∧ (dataOf q.word).toNat = 0 then
      .ok (.getMirroring)
    else if (kindOf q.word).toNat = 9 ∧ (zOf q.word).toNat = 0 ∧ (addrOf q.word).toNat = 0 ∧ (dataOf q.word).toNat = 0 then
      .ok (.save)
    else if (kindOf q.word).toNat = 10 ∧ (zOf q.word).toNat = 0 ∧ (addrOf q.word).toNat = 0 ∧ (dataOf q.word).toNat = 0 then
      .ok (.restore q.blob)
    else if v = .swap ∧ (kindOf q.word).toNat = 1 ∧ (zOf q.word).toNat = 0 ∧ 0x8000 ≤ (addrOf q.word).toNat then
      .ok (.cwSwapBank (addrOf q.word) (dataOf q.word))
    else if v = .serial ∧ (kindOf q.word).toNat = 1 ∧ (zOf q.word).toNat = 0 ∧ 0x8000 ≤ (addrOf q.word).toNat ∧ 128 ≤ (dataOf q.word).toNat then
      .ok (.cwSerialReset (addrOf q.word) (dataOf q.word))
    else if v = .serial ∧ (kindOf q.word).toNat = 1 ∧ (zOf q.word).toNat = 0 ∧ 0x8000 ≤ (addrOf q.word).toNat ∧ (addrOf q.word).toNat ≤ 0x9FFF ∧ (dataOf q.word).toNat < 128 then
      .ok (.cwSerialCtrl (addrOf q.word) (dataOf q.word))
    else if v = .serial ∧ (kindOf q.word).toNat = 1 ∧ (zOf q.word).toNat = 0 ∧ 0xA000 ≤ (addrOf q.word).toNat ∧ (addrOf q.word).toNat ≤ 0xBFFF ∧ (dataOf q.word).toNat < 128 then
      .ok (.cwSerialChr0 (addrOf q.word) (dataOf q.word))
    else if v = .serial ∧ (kindOf q.word).toNat = 1 ∧ (zOf q.word).toNat = 0 ∧ 0xC000 ≤ (addrOf q.word).toNat ∧ (addrOf q.word).toNat ≤ 0xDFFF ∧ (dataOf q.word).toNat < 128 then
      .ok (.cwSerialChr1 (addrOf q.word) (dataOf q.word))
    else if v = .serial ∧ (kindOf q.word).toNat = 1 ∧ (zOf q.word).toNat = 0 ∧ 0xE000 ≤ (addrOf q.word).toNat ∧ (dataOf q.word).toNat < 128 then
      .ok (.cwSerialPrg (addrOf q.word) (dataOf q.word))
    else if v = .scan ∧ (kindOf q.word).toNat = 1 ∧ (zOf q.word).toNat = 0 ∧ 0x8000 ≤ (addrOf q.word).toNat ∧ (addrOf q.word).toNat ≤ 0x9FFF ∧ (addrOf q.word).toNat % 2 = 0 then
      .ok (.cwScanBankSelect (addrOf q.word) (dataOf q.word))
    else if v = .scan ∧ (kindOf q.word).toNat = 1 ∧ (zOf q.word).toNat = 0 ∧ 0x8000 ≤ (addrOf q.word).toNat ∧ (addrOf q.word).toNat ≤ 0x9FFF ∧ (addrOf q.word).toNat % 2 = 1 then
      .ok (.cwScanBankData (addrOf q.word) (dataOf q.word))
    else if v = .scan ∧ (kindOf q.word).toNat = 1 ∧ (zOf q.word).toNat = 0 ∧ 0xA000 ≤ (addrOf q.word).toNat ∧ (addrOf q.word).toNat ≤ 0xBFFF ∧ (addrOf q.word).toNat % 2 = 0 then
      .ok (.cwScanMirroring (addrOf q.word) (dataOf q.word))
    else if v = .scan ∧ (kindOf q.word).toNat = 1 ∧ (zOf q.word).toNat = 0 ∧ 0xA000 ≤ (addrOf q.word).toNat ∧ (addrOf q.word).toNat ≤ 0xBFFF ∧ (addrOf q.word).toNat % 2 = 1 then
      .ok (.cwScanPrgRamProtect (addrOf q.word) (dataOf q.word))
    else if v = .scan ∧ (kindOf q.word).toNat = 1 ∧ (zOf q.word).toNat = 0 ∧ 0xC000 ≤ (addrOf q.word).toNat ∧ (addrOf q.word).toNat ≤ 0xDFFF ∧ (addrOf q.word).toNat % 2 = 0 then
      .ok (.cwScanIrqLatch (addrOf q.word) (dataOf q.word))
    else if v = .scan ∧ (kindOf q.word).toNat = 1 ∧ (zOf q.word).toNat = 0 ∧ 0xC000 ≤ (addrOf q.word).toNat ∧ (addrOf q.word).toNat ≤ 0xDFFF ∧ (addrOf q.word).toNat % 2 = 1 then
      .ok (.cwScanIrqReload (addrOf q.word) (dataOf q.word))
    else if v = .scan ∧ (kindOf q.word).toNat = 1 ∧ (zOf q.word).toNat = 0 ∧ 0xE000 ≤ (addrOf q.word).toNat ∧ (addrOf q.word).toNat % 2 = 0 then
      .ok (.cwScanIrqDisable (addrOf q.word) (dataOf q.word))
    else if v = .scan ∧ (kindOf q.word).toNat = 1 ∧ (zOf q.word).toNat = 0 ∧ 0xE000 ≤ (addrOf q.word).toNat ∧ (addrOf q.word).toNat % 2 = 1 then
      .ok (.cwScanIrqEnable (addrOf q.word) (dataOf q.word))
    else .error (refusalOf q.word) := by
  rw [decode_eq_firstHit]
  simp only [opcodeTable, busRows, hostRows, swapRows, serialRows, scanRows, List.cons_append, List.nil_append,
    firstHit, rowFits, decide_eq_true_eq, true_and, @eq_comm Variant _ v,
    hits_refusedCrUnrouted, hits_refusedCwUnrouted, hits_crOpen, hits_cwOpen, hits_crPrgRam, hits_cwPrgRam, hits_crPrgRom, hits_prChr, hits_pwChr, hits_tick, hits_reset, hits_irqPending, hits_irqAck, hits_getMirroring, hits_save, hits_restore, hits_cwSwapBank, hits_cwSerialReset, hits_cwSerialCtrl, hits_cwSerialChr0, hits_cwSerialChr1, hits_cwSerialPrg, hits_cwScanBankSelect, hits_cwScanBankData, hits_cwScanMirroring, hits_cwScanPrgRamProtect, hits_cwScanIrqLatch, hits_cwScanIrqReload, hits_cwScanIrqDisable, hits_cwScanIrqEnable]

end Sys2Proof
end

