-- ==== Sys2Proof/Laws/Memory.lean ====
section
/-! SUPPORT. The laws of a region's contents: read after write, every other offset is left alone, and every operation
keeps the canonical form, in which equal reads are equal data. -/

namespace Sys2Proof.Machine

@[simp] theorem Memory.read_nil (o : Nat) : Memory.read [] o = Memory.unlisted := rfl

theorem Memory.wf_cons {k : Nat} {b : Byte} {m : Memory} :
    Memory.wf ((k, b) :: m) = true ↔ b ≠ Memory.unlisted ∧ Memory.startsAbove m k = true ∧ Memory.wf m = true := by
  simp [Memory.wf, and_assoc]

theorem Memory.startsAbove_mono {m : Memory} {j k : Nat} (hjk : j ≤ k) (h : Memory.startsAbove m k = true) :
    Memory.startsAbove m j = true := by
  cases m with
  | nil => rfl
  | cons c m => simp only [Memory.startsAbove, decide_eq_true_eq] at h ⊢; omega

/-- In canonical contents that start above `k`, offset `k` and every lower one is not listed. -/
theorem Memory.read_of_startsAbove {m : Memory} {k : Nat} (hw : Memory.wf m = true)
    (h : Memory.startsAbove m k = true) {o : Nat} (ho : o ≤ k) : Memory.read m o = Memory.unlisted := by
  induction m generalizing k with
  | nil => rfl
  | cons c m ih =>
    obtain ⟨j, b⟩ := c
    obtain ⟨-, hs, hm⟩ := Memory.wf_cons.1 hw
    simp only [Memory.startsAbove, decide_eq_true_eq] at h
    rw [Memory.read, if_neg (by omega)]
    exact ih hm hs (by omega)

theorem Memory.read_write_same {m : Memory} (hw : Memory.wf m = true) (o : Nat) (v : Byte) :
    Memory.read (Memory.write m o v) o = v := by
  induction m with
  | nil =>
    by_cases hv : v = Memory.unlisted
    · simp [Memory.write, hv]
    · simp [Memory.write, hv, Memory.read]
  | cons c m ih =>
    obtain ⟨k, b⟩ := c
    obtain ⟨hb, hs, hm⟩ := Memory.wf_cons.1 hw
    by_cases hlt : o < k
    · by_cases hv : v = Memory.unlisted
      · have hr : Memory.read m o = Memory.unlisted := Memory.read_of_startsAbove hm hs (by omega)
        simp [Memory.write, hlt, hv, Memory.read, hr, show k ≠ o by omega]
      · simp [Memory.write, hlt, hv, Memory.read]
    · by_cases heq : o = k
      · subst heq
        by_cases hv : v = Memory.unlisted
        · simp [Memory.write, hv, Memory.read_of_startsAbove hm hs le_rfl]
        · simp [Memory.write, hv, Memory.read]
      · simp [Memory.write, hlt, heq, Memory.read, Ne.symm heq, ih hm]

theorem Memory.read_write_other (m : Memory) (v : Byte) {o o' : Nat} (h : o' ≠ o) :
    Memory.read (Memory.write m o v) o' = Memory.read m o' := by
  induction m with
  | nil =>
    by_cases hv : v = Memory.unlisted
    · simp [Memory.write, hv]
    · simp [Memory.write, hv, Memory.read, Ne.symm h]
  | cons c m ih =>
    obtain ⟨k, b⟩ := c
    by_cases hlt : o < k
    · by_cases hv : v = Memory.unlisted <;> simp [Memory.write, hlt, hv, Memory.read, Ne.symm h]
    · by_cases heq : o = k
      · subst heq
        by_cases hv : v = Memory.unlisted <;> simp [Memory.write, hv, Memory.read, Ne.symm h]
      · simp [Memory.write, hlt, heq, Memory.read, ih]

theorem Memory.startsAbove_write {m : Memory} {k o : Nat} (hw : Memory.wf m = true)
    (h : Memory.startsAbove m k = true) (ho : k < o) (v : Byte) :
    Memory.startsAbove (Memory.write m o v) k = true := by
  cases m with
  | nil => by_cases hv : v = Memory.unlisted <;> simp [Memory.write, hv, Memory.startsAbove, ho]
  | cons c m =>
    obtain ⟨j, b⟩ := c
    obtain ⟨-, hs, -⟩ := Memory.wf_cons.1 hw
    simp only [Memory.startsAbove, decide_eq_true_eq] at h
    by_cases hlt : o < j
    · by_cases hv : v = Memory.unlisted <;> simp [Memory.write, hlt, hv, Memory.startsAbove, ho, h]
    · by_cases heq : o = j
      · subst heq
        by_cases hv : v = Memory.unlisted
        · simpa [Memory.write, hv] using Memory.startsAbove_mono (by omega) hs
        · simp [Memory.write, hv, Memory.startsAbove, ho]
      · simp [Memory.write, hlt, heq, Memory.startsAbove, h]

/-- A write keeps the canonical form. -/
theorem Memory.wf_write {m : Memory} (hw : Memory.wf m = true) (o : Nat) (v : Byte) :
    Memory.wf (Memory.write m o v) = true := by
  induction m with
  | nil =>
    by_cases hv : v = Memory.unlisted
    · simp [Memory.write, hv, Memory.wf]
    · simp [Memory.write, hv, Memory.wf, Memory.startsAbove]
  | cons c m ih =>
    obtain ⟨k, b⟩ := c
    obtain ⟨hb, hs, hm⟩ := Memory.wf_cons.1 hw
    by_cases hlt : o < k
    · by_cases hv : v = Memory.unlisted
      · simpa [Memory.write, hlt, hv] using hw
      · have h2 : Memory.startsAbove ((k, b) :: m) o = true := by simpa [Memory.startsAbove] using hlt
        simpa [Memory.write, hlt, hv] using Memory.wf_cons.2 ⟨hv, h2, hw⟩
    · by_cases heq : o = k
      · subst heq
        by_cases hv : v = Memory.unlisted
        · simpa [Memory.write, hv] using hm
        · simpa [Memory.write, hv] using Memory.wf_cons.2 ⟨hv, hs, hm⟩
      · have h2 := Memory.startsAbove_write hm hs (show k < o by omega) v
        simpa [Memory.write, hlt, heq] using Memory.wf_cons.2 ⟨hb, h2, ih hm⟩

/-- A write below `n` keeps every offset below `n`. -/
theorem Memory.below_write {m : Memory} {n o : Nat} (h : Memory.below m n = true) (ho : o < n) (v : Byte) :
    Memory.below (Memory.write m o v) n = true := by
  induction m with
  | nil => by_cases hv : v = Memory.unlisted <;> simp [Memory.write, hv, Memory.below, ho]
  | cons c m ih =>
    obtain ⟨k, b⟩ := c
    simp only [Memory.below, List.all_cons, Bool.and_eq_true, decide_eq_true_eq] at h ih
    obtain ⟨hk, hm⟩ := h
    by_cases hlt : o < k
    · by_cases hv : v = Memory.unlisted <;> simp [Memory.write, hlt, hv, Memory.below, ho, hk] <;> simpa using hm
    · by_cases heq : o = k
      · by_cases hv : v = Memory.unlisted <;> simp [Memory.write, heq, hv, Memory.below, hk] <;> simpa using hm
      · simpa [Memory.write, hlt, heq, Memory.below, hk] using ih hm

/-- The canonical form is one list per content: equal reads are equal data. -/
theorem Memory.ext_of_wf {m n : Memory} (hm : Memory.wf m = true) (hn : Memory.wf n = true)
    (h : ∀ o, Memory.read m o = Memory.read n o) : m = n := by
  induction m generalizing n with
  | nil =>
    cases n with
    | nil => rfl
    | cons c n =>
      obtain ⟨k, b⟩ := c
      have hk := h k
      simp only [Memory.read, if_true] at hk
      exact absurd hk.symm (Memory.wf_cons.1 hn).1
  | cons c m ih =>
    obtain ⟨k, b⟩ := c
    obtain ⟨hb, hs, hw⟩ := Memory.wf_cons.1 hm
    cases n with
    | nil =>
      have hk := h k
      simp only [Memory.read, if_true] at hk
      exact absurd hk hb
    | cons d n =>
      obtain ⟨j, b'⟩ := d
      obtain ⟨hb', hs', hw'⟩ := Memory.wf_cons.1 hn
      have hkj : k = j := by
        by_contra hne
        rcases Nat.lt_or_gt_of_ne hne with hlt | hgt
        · have hk := h k
          rw [Memory.read, if_pos rfl, Memory.read, if_neg (by omega),
            Memory.read_of_startsAbove hw' hs' (by omega)] at hk
          exact hb hk
        · have hj := h j
          rw [Memory.read, if_neg (by omega), Memory.read, if_pos rfl,
            Memory.read_of_startsAbove hw hs (by omega)] at hj
          exact hb' hj.symm
      subst hkj
      have hbb : b = b' := by simpa [Memory.read] using h k
      subst hbb
      congr 1
      refine ih hw hw' fun o => ?_
      by_cases ho : o ≤ k
      · rw [Memory.read_of_startsAbove hw hs ho, Memory.read_of_startsAbove hw' hs' ho]
      · have := h o
        rwa [Memory.read, if_neg (by omega), Memory.read, if_neg (by omega)] at this

/-! ### Contents made from an image or a draw -/

theorem Memory.startsAbove_ofBytesFrom (image : List Byte) {o k : Nat} (h : k < o) :
    Memory.startsAbove (Memory.ofBytesFrom o image) k = true := by
  induction image generalizing o with
  | nil => rfl
  | cons b image ih =>
    by_cases hb : b = Memory.unlisted
    · simpa [Memory.ofBytesFrom, hb] using ih (o := o + 1) (by omega)
    · simp [Memory.ofBytesFrom, hb, Memory.startsAbove, h]

theorem Memory.wf_ofBytesFrom (image : List Byte) (o : Nat) : Memory.wf (Memory.ofBytesFrom o image) = true := by
  induction image generalizing o with
  | nil => rfl
  | cons b image ih =>
    by_cases hb : b = Memory.unlisted
    · simpa [Memory.ofBytesFrom, hb] using ih (o + 1)
    · simpa [Memory.ofBytesFrom, hb] using
        Memory.wf_cons.2 ⟨hb, Memory.startsAbove_ofBytesFrom image (Nat.lt_succ_self o), ih (o + 1)⟩

theorem Memory.wf_ofBytes (image : List Byte) : Memory.wf (Memory.ofBytes image) = true :=
  Memory.wf_ofBytesFrom image 0

theorem Memory.below_ofBytesFrom (image : List Byte) (o : Nat) :
    Memory.below (Memory.ofBytesFrom o image) (o + image.length) = true := by
  induction image generalizing o with
  | nil => rfl
  | cons b image ih =>
    have h := ih (o + 1)
    rw [show o + 1 + image.length = o + (b :: image).length by simp; omega] at h
    by_cases hb : b = Memory.unlisted
    · simpa [Memory.ofBytesFrom, hb] using h
    · simp only [Memory.ofBytesFrom, hb, if_false]
      simp only [Memory.below, List.all_cons, Bool.and_eq_true, decide_eq_true_eq] at h ⊢
      exact ⟨by simp, h⟩

theorem Memory.below_ofBytes (image : List Byte) : Memory.below (Memory.ofBytes image) image.length = true := by
  simpa [Memory.ofBytes] using Memory.below_ofBytesFrom image 0

theorem Memory.read_ofBytesFrom (image : List Byte) (o j : Nat) :
    Memory.read (Memory.ofBytesFrom o image) (o + j) = image.getD j Memory.unlisted := by
  induction image generalizing o j with
  | nil => simp [Memory.ofBytesFrom]
  | cons b image ih =>
    have hrest : ∀ j, Memory.read (Memory.ofBytesFrom (o + 1) image) (o + (j + 1)) = image.getD j Memory.unlisted := by
      intro j
      rw [show o + (j + 1) = o + 1 + j by omega]
      exact ih (o + 1) j
    have hfirst : Memory.read (Memory.ofBytesFrom (o + 1) image) o = Memory.unlisted :=
      Memory.read_of_startsAbove (Memory.wf_ofBytesFrom image (o + 1))
        (Memory.startsAbove_ofBytesFrom image (Nat.lt_succ_self o)) le_rfl
    cases j with
    | zero => by_cases hb : b = Memory.unlisted <;> simp [Memory.ofBytesFrom, hb, Memory.read, hfirst]
    | succ j => by_cases hb : b = Memory.unlisted <;> simp [Memory.ofBytesFrom, hb, Memory.read, hrest]

/-- The contents made from an image hold its bytes. -/
theorem Memory.read_ofBytes (image : List Byte) (j : Nat) :
    Memory.read (Memory.ofBytes image) j = image.getD j Memory.unlisted := by
  simpa [Memory.ofBytes] using Memory.read_ofBytesFrom image 0 j

/-- The contents made from a draw hold its bytes. -/
theorem Memory.read_ofDraw (n : Nat) (f : Nat → Byte) {j : Nat} (h : j < n) :
    Memory.read (Memory.ofDraw n f) j = f j := by
  simp [Memory.ofDraw, Memory.read_ofBytes, h]

end Sys2Proof.Machine
end

