-- ==== Sys2Proof/Laws/State.lean ====
section
/-! SUPPORT. The fields of a state after each named update, one lemma per field, true by rfl, so that no later proof
unfolds a record update. -/

namespace Sys2Proof.Machine

section returning
variable (s : State) (r : Result)
@[simp] theorem returning_params : (returning s r).params = s.params := rfl
@[simp] theorem returning_header : (returning s r).header = s.header := rfl
@[simp] theorem returning_regs : (returning s r).regs = s.regs := rfl
@[simp] theorem returning_prgRom : (returning s r).prgRom = s.prgRom := rfl
@[simp] theorem returning_prgRam : (returning s r).prgRam = s.prgRam := rfl
@[simp] theorem returning_chr : (returning s r).chr = s.chr := rfl
@[simp] theorem returning_pending : (returning s r).pending = s.pending := rfl
@[simp] theorem returning_pos : (returning s r).pos = s.pos := rfl
@[simp] theorem returning_result : (returning s r).result = r := rfl
@[simp] theorem returning_draws : (returning s r).draws = s.draws := rfl
end returning

section openBus
variable (s : State)
@[simp] theorem returningOpenBus_params : (returningOpenBus s).params = s.params := rfl
@[simp] theorem returningOpenBus_header : (returningOpenBus s).header = s.header := rfl
@[simp] theorem returningOpenBus_regs : (returningOpenBus s).regs = s.regs := rfl
@[simp] theorem returningOpenBus_prgRom : (returningOpenBus s).prgRom = s.prgRom := rfl
@[simp] theorem returningOpenBus_prgRam : (returningOpenBus s).prgRam = s.prgRam := rfl
@[simp] theorem returningOpenBus_chr : (returningOpenBus s).chr = s.chr := rfl
@[simp] theorem returningOpenBus_pending : (returningOpenBus s).pending = s.pending := rfl
@[simp] theorem returningOpenBus_pos : (returningOpenBus s).pos = s.pos := rfl
@[simp] theorem returningOpenBus_result :
    (returningOpenBus s).result = .byte (Config.openBus s.draws) := rfl
@[simp] theorem returningOpenBus_draws : (returningOpenBus s).draws = s.draws + 1 := rfl
end openBus

section setRegs
variable (s : State) (g : Regs)
@[simp] theorem setRegs_params : (setRegs s g).params = s.params := rfl
@[simp] theorem setRegs_header : (setRegs s g).header = s.header := rfl
@[simp] theorem setRegs_regs : (setRegs s g).regs = g := rfl
@[simp] theorem setRegs_prgRom : (setRegs s g).prgRom = s.prgRom := rfl
@[simp] theorem setRegs_prgRam : (setRegs s g).prgRam = s.prgRam := rfl
@[simp] theorem setRegs_chr : (setRegs s g).chr = s.chr := rfl
@[simp] theorem setRegs_pending : (setRegs s g).pending = s.pending := rfl
@[simp] theorem setRegs_pos : (setRegs s g).pos = s.pos := rfl
@[simp] theorem setRegs_result : (setRegs s g).result = .nothing := rfl
@[simp] theorem setRegs_draws : (setRegs s g).draws = s.draws := rfl
end setRegs

section issued
variable (s : State) (rest : List Request)
@[simp] theorem issued_params : (issued s rest).params = s.params := rfl
@[simp] theorem issued_header : (issued s rest).header = s.header := rfl
@[simp] theorem issued_regs : (issued s rest).regs = s.regs := rfl
@[simp] theorem issued_prgRom : (issued s rest).prgRom = s.prgRom := rfl
@[simp] theorem issued_prgRam : (issued s rest).prgRam = s.prgRam := rfl
@[simp] theorem issued_chr : (issued s rest).chr = s.chr := rfl
@[simp] theorem issued_pending : (issued s rest).pending = rest := rfl
@[simp] theorem issued_pos : (issued s rest).pos = s.pos + 1 := rfl
@[simp] theorem issued_result : (issued s rest).result = s.result := rfl
@[simp] theorem issued_draws : (issued s rest).draws = s.draws := rfl
@[simp] theorem issued_variant : (issued s rest).variant = s.variant := rfl
end issued

section withScript
variable (s : State) (qs : List Request)
@[simp] theorem withScript_params : (withScript s qs).params = s.params := rfl
@[simp] theorem withScript_header : (withScript s qs).header = s.header := rfl
@[simp] theorem withScript_regs : (withScript s qs).regs = s.regs := rfl
@[simp] theorem withScript_prgRom : (withScript s qs).prgRom = s.prgRom := rfl
@[simp] theorem withScript_prgRam : (withScript s qs).prgRam = s.prgRam := rfl
@[simp] theorem withScript_chr : (withScript s qs).chr = s.chr := rfl
@[simp] theorem withScript_pending : (withScript s qs).pending = qs := rfl
@[simp] theorem withScript_pos : (withScript s qs).pos = s.pos := rfl
@[simp] theorem withScript_result : (withScript s qs).result = s.result := rfl
@[simp] theorem withScript_draws : (withScript s qs).draws = s.draws := rfl
@[simp] theorem withScript_variant : (withScript s qs).variant = s.variant := rfl
end withScript

section variant
@[simp] theorem variant_swap (r : SwapRegs) : Regs.variant (.swap r) = .swap := rfl
@[simp] theorem variant_serial (r : SerialRegs) : Regs.variant (.serial r) = .serial := rfl
@[simp] theorem variant_scan (r : ScanRegs) : Regs.variant (.scan r) = .scan := rfl
@[simp] theorem returning_variant (s : State) (r : Result) : (returning s r).variant = s.variant := rfl
@[simp] theorem returningOpenBus_variant (s : State) : (returningOpenBus s).variant = s.variant := rfl
@[simp] theorem setRegs_variant (s : State) (g : Regs) : (setRegs s g).variant = Regs.variant g := rfl
@[simp] theorem resetRegs_variant (p : Params) (h : Header) (v : Variant) :
    Regs.variant (resetRegs p h v) = v := by cases v <;> rfl
end variant

/-- `State.reset` holds the reset values of its variant (R295). -/
theorem reset_regs :
    State.reset.regs = resetRegs State.reset.params State.reset.header State.reset.variant := rfl

/-! ### The fetch of the next transaction -/

/-- A table word placed by `withFetchWord` is the transaction that the very next step decodes and runs. -/
theorem step_withFetchWord (s : State) (nbits w : Nat) (i : Instr)
    (h : decode s.variant (Request.ofTableWord w) = .ok i) :
    step (s.withFetchWord nbits w) = exec i (issued s s.pending) := by
  have hv : (s.withFetchWord nbits w).variant = s.variant := rfl
  simp only [step, hv]
  simp only [State.withFetchWord, h]
  rfl

end Sys2Proof.Machine
end

