-- ==== Sys2Proof/Laws/Ops.lean ====
section
/-! SUPPORT. What each shared operation can do, said once: regions, the bank window, the variants' register writes. -/

namespace Sys2Proof.Machine

/-! ### Regions -/

section frames
variable (s : State) (R R' : Region)

@[simp] theorem regionContents_returning (r : Result) :
    regionContents (returning s r) R = regionContents s R := by cases R <;> rfl

@[simp] theorem regionContents_returningOpenBus :
    regionContents (returningOpenBus s) R = regionContents s R := by cases R <;> rfl

@[simp] theorem regionContents_setRegs (g : Regs) : regionContents (setRegs s g) R = regionContents s R := by
  cases R <;> rfl

@[simp] theorem regionContents_issued (rest : List Request) :
    regionContents (issued s rest) R = regionContents s R := by cases R <;> rfl

@[simp] theorem regionRead_returning (r : Result) (o : Nat) :
    regionRead (returning s r) R o = regionRead s R o := by simp [regionRead]

@[simp] theorem regionRead_returningOpenBus (o : Nat) :
    regionRead (returningOpenBus s) R o = regionRead s R o := by simp [regionRead]

@[simp] theorem regionRead_setRegs (g : Regs) (o : Nat) :
    regionRead (setRegs s g) R o = regionRead s R o := by simp [regionRead]

@[simp] theorem regionRead_issued (rest : List Request) (o : Nat) :
    regionRead (issued s rest) R o = regionRead s R o := by simp [regionRead]

theorem regionContents_setRegion (m : Memory) :
    regionContents (setRegion s R m) R' = if R' = R then m else regionContents s R' := by
  cases R <;> cases R' <;> rfl

end frames

/-- A region write changes region contents only. -/
theorem regionWrite_fields (s : State) (R : Region) (o : Nat) (v : Byte) :
    let t := regionWrite s R o v
    t.params = s.params ∧ t.header = s.header ∧ t.regs = s.regs ∧ t.pending = s.pending ∧ t.pos = s.pos ∧
      t.result = s.result ∧ t.draws = s.draws := by
  cases R <;> simp [regionWrite, setRegion] <;> split <;> simp

/-- The contents of every region after a region write. -/
theorem regionContents_regionWrite (s : State) (R R' : Region) (o : Nat) (v : Byte) :
    regionContents (regionWrite s R o v) R' =
      if R' = R ∧ regionWritable s R = true then Memory.write (regionContents s R) o v else regionContents s R' := by
  unfold regionWrite
  by_cases hw : regionWritable s R = true
  · by_cases hR : R' = R <;> simp [hw, hR, regionContents_setRegion]
  · simp [hw]

/-- The byte a region write does not address reads as before. -/
theorem regionRead_regionWrite_other (s : State) {R R' : Region} {o o' : Nat} (v : Byte)
    (h : ¬ (R' = R ∧ o' = o)) : regionRead (regionWrite s R o v) R' o' = regionRead s R' o' := by
  unfold regionRead
  rw [regionContents_regionWrite]
  split
  · rename_i hc
    obtain ⟨rfl, -⟩ := hc
    exact Memory.read_write_other _ v fun ho => h ⟨rfl, ho⟩
  · rfl

/-- The byte written to a writable region reads back. -/
theorem regionRead_regionWrite_same (s : State) {R : Region} (o : Nat) (v : Byte)
    (hw : regionWritable s R = true) (hm : Memory.wf (regionContents s R) = true) :
    regionRead (regionWrite s R o v) R o = v := by
  unfold regionRead
  rw [regionContents_regionWrite, if_pos ⟨rfl, hw⟩]
  exact Memory.read_write_same hm o v

/-- A read-only region is never changed (R104). -/
theorem regionWrite_readOnly (s : State) {R : Region} (o : Nat) (v : Byte) (hw : regionWritable s R = false) :
    regionWrite s R o v = s := by simp [regionWrite, hw]

/-! ### The bank window -/

theorem bankCount_pos {len size : Nat} (hs : 0 < size) : 0 < bankCount len size := by
  unfold bankCount
  split
  · exact Nat.div_pos ‹_› hs
  · exact Nat.one_pos

theorem resolveBank_ofNat (b n : Nat) : resolveBank (b : Int) n = b % n := by
  have h : ¬ ((b : Int) < 0) := by omega
  simp only [resolveBank, if_neg h]
  rw [← Int.natCast_emod, Int.toNat_natCast]

theorem resolveBank_ofNatLit (b n : Nat) : resolveBank (OfNat.ofNat b) n = b % n := resolveBank_ofNat b n

theorem windowOffset_lt {base size len : Nat} {b : Int} {a : Nat} (h : 0 < len) :
    windowOffset base size len b a < len := Nat.mod_lt _ h

/-! ### The register writes of one variant -/

theorem updateSwap_of_regs {s : State} {r : SwapRegs} (f : SwapRegs → SwapRegs) (h : s.regs = .swap r) :
    updateSwap s f = .next (setRegs s (.swap (f r))) := by simp [updateSwap, h]

theorem updateSerial_of_regs {s : State} {r : SerialRegs} (f : SerialRegs → SerialRegs) (h : s.regs = .serial r) :
    updateSerial s f = .next (setRegs s (.serial (f r))) := by simp [updateSerial, h]

theorem updateScan_of_regs {s : State} {r : ScanRegs} (f : ScanRegs → ScanRegs) (h : s.regs = .scan r) :
    updateScan s f = .next (setRegs s (.scan (f r))) := by simp [updateScan, h]

/-- A SWAP register write goes on only in a SWAP instance, and changes its register and the result only. -/
theorem updateSwap_next {s t : State} {f : SwapRegs → SwapRegs} (h : updateSwap s f = .next t) :
    ∃ r, s.regs = .swap r ∧ t = setRegs s (.swap (f r)) := by
  unfold updateSwap at h
  split at h
  · exact ⟨_, ‹_›, by simpa using h.symm⟩
  · cases h
  · cases h

/-- A SERIAL register write goes on only in a SERIAL instance, and changes its registers and the result only. -/
theorem updateSerial_next {s t : State} {f : SerialRegs → SerialRegs} (h : updateSerial s f = .next t) :
    ∃ r, s.regs = .serial r ∧ t = setRegs s (.serial (f r)) := by
  unfold updateSerial at h
  split at h
  · cases h
  · exact ⟨_, ‹_›, by simpa using h.symm⟩
  · cases h

/-- A SCAN register write goes on only in a SCAN instance, and changes its registers and the result only. -/
theorem updateScan_next {s t : State} {f : ScanRegs → ScanRegs} (h : updateScan s f = .next t) :
    ∃ r, s.regs = .scan r ∧ t = setRegs s (.scan (f r)) := by
  unfold updateScan at h
  split at h
  · cases h
  · cases h
  · exact ⟨_, ‹_›, by simpa using h.symm⟩

end Sys2Proof.Machine
end

