-- ==== Sys2Proof/Laws/Flags.lean ====
section
/-! SUPPORT. What the edge filter and the counter clock can do (43_counter_irq.md R220 to R222), said once. -/

namespace Sys2Proof.Machine

/-- The counter clock writes the counter, the reload flag and the pending flag, nothing else. -/
theorem clockCounter_frame (p : Params) (r : ScanRegs) :
    clockCounter p r = { r with
      irqCounter := (clockCounter p r).irqCounter
      irqReload := (clockCounter p r).irqReload
      irqPending := (clockCounter p r).irqPending } := by
  simp only [clockCounter, clockCount]
  split <;> split <;> rfl

@[simp] theorem clockCounter_a12LowRun (p : Params) (r : ScanRegs) :
    (clockCounter p r).a12LowRun = r.a12LowRun := by rw [clockCounter_frame]

@[simp] theorem clockCounter_irqLatch (p : Params) (r : ScanRegs) :
    (clockCounter p r).irqLatch = r.irqLatch := by rw [clockCounter_frame]

@[simp] theorem clockCounter_irqEnable (p : Params) (r : ScanRegs) :
    (clockCounter p r).irqEnable = r.irqEnable := by rw [clockCounter_frame]

/-- A counter clock that reloads (R222). -/
theorem clockCounter_reload (p : Params) (r : ScanRegs) (h : clockReloads r = true) :
    clockCounter p r = { r with
      irqCounter := r.irqLatch
      irqReload := false
      irqPending := r.irqPending || (decide (r.irqLatch = 0#8) && r.irqEnable && p.scanIrqOnReloadZero) } := by
  have hc : clockCount r = { r with irqCounter := r.irqLatch, irqReload := false } := by simp [clockCount, h]
  simp only [clockCounter, hc, h]
  by_cases hl : r.irqLatch = 0#8 <;> cases r.irqEnable <;> cases p.scanIrqOnReloadZero <;> simp [hl]

/-- A counter clock that decrements (R222). -/
theorem clockCounter_decrement (p : Params) (r : ScanRegs) (h : clockReloads r = false) :
    clockCounter p r = { r with
      irqCounter := r.irqCounter - 1#8
      irqPending := r.irqPending || (decide (r.irqCounter - 1#8 = 0#8) && r.irqEnable) } := by
  have hc : clockCount r = { r with irqCounter := r.irqCounter - 1#8 } := by simp [clockCount, h]
  simp only [clockCounter, hc, h]
  by_cases hl : r.irqCounter - 1#8 = 0#8 <;> cases r.irqEnable <;> simp [hl]

/-- A low tick lengthens the run and clocks nothing (R220). -/
theorem tickScan_low (p : Params) (r : ScanRegs) :
    tickScan p false r = { r with a12LowRun := min (r.a12LowRun + 1) p.a12Filter } := by
  simp [tickScan, qualifies]

/-- A high tick after too short a run clocks nothing (R220, R221). -/
theorem tickScan_filtered (p : Params) (r : ScanRegs) (h : r.a12LowRun < p.a12Filter) :
    tickScan p true r = { r with a12LowRun := 0 } := by
  simp [tickScan, qualifies, Nat.not_le.2 h]

/-- A qualifying transition clocks the counter once (R220, R221). -/
theorem tickScan_qualifying (p : Params) (r : ScanRegs) (h : p.a12Filter ≤ r.a12LowRun) :
    tickScan p true r = { clockCounter p r with a12LowRun := 0 } := by
  simp [tickScan, qualifies, h]

end Sys2Proof.Machine
end

