-- ==== Sys2Proof/Laws/Windows.lean ====
section
/-! SUPPORT. The offset of an address in a window (40_bank_window.md R100 to R102) as plain arithmetic, and which window
of a layout covers an address (R106), so that no proof about a read unfolds them. -/

namespace Sys2Proof.Machine

/-- The last byte of a bank lies inside a region that holds the bank. -/
theorem bank_inside {k size len x : Nat} (hk : k < len / size) (hx : x < size) : k * size + x < len := by
  have h1 : (k + 1) * size ≤ len / size * size := Nat.mul_le_mul_right _ hk
  have h2 := Nat.div_mul_le_self len size
  have h3 : (k + 1) * size = k * size + size := by ring
  omega

/-- The offset in a window whose bank number resolves to `k`. -/
theorem windowOffset_of_bank {base size len k : Nat} {b : Int} {a : Nat} (hs : 0 < size) (hl : size ≤ len)
    (hk : resolveBank b (len / size) = k) (h1 : base ≤ a) (h2 : a < base + size) :
    windowOffset base size len b a = k * size + (a - base) := by
  have hlt : k < len / size := by
    have hpos := Nat.div_pos hl hs
    subst hk
    have := Int.emod_nonneg (if b < 0 then ((len / size : Nat) : Int) + b else b) (b := ((len / size : Nat) : Int))
      (by omega)
    have := Int.emod_lt_of_pos (if b < 0 then ((len / size : Nat) : Int) + b else b)
      (b := ((len / size : Nat) : Int)) (by omega)
    simp only [resolveBank]
    omega
  simp only [windowOffset, bankCount, if_pos hl, hk]
  exact Nat.mod_eq_of_lt (bank_inside hlt (by omega))

/-- A window on a bank number that is not negative. -/
theorem windowOffset_ofNat {base size len : Nat} (b : Nat) {a : Nat} (hs : 0 < size) (hl : size ≤ len)
    (h1 : base ≤ a) (h2 : a < base + size) :
    windowOffset base size len (b : Int) a = b % (len / size) * size + (a - base) :=
  windowOffset_of_bank hs hl (resolveBank_ofNat _ _) h1 h2

/-- −1 is the last bank (R107). -/
theorem resolveBank_last {n : Nat} (h : 1 ≤ n) : resolveBank (-1) n = n - 1 := by
  simp only [resolveBank]
  rw [if_pos (by decide), Int.emod_eq_of_lt] <;> omega

/-- −2 is the second-last bank, where there are two (R107). -/
theorem resolveBank_secondLast {n : Nat} (h : 2 ≤ n) : resolveBank (-2) n = n - 2 := by
  simp only [resolveBank]
  rw [if_pos (by decide), Int.emod_eq_of_lt] <;> omega

/-- The first window of a layout covers the address. -/
theorem winAt_here {w : Win} {layout : List Win} {a : Nat} (h1 : w.base ≤ a) (h2 : a < w.base + w.size) :
    winAt (w :: layout) a = w := by
  simp [winAt, List.find?, Win.covers, h1, h2]

/-- The first window of a layout does not cover the address. -/
theorem winAt_later {w : Win} {layout : List Win} {a : Nat} (h : a < w.base ∨ w.base + w.size ≤ a) :
    winAt (w :: layout) a = winAt layout a := by
  have hc : w.covers a = false := by simp [Win.covers]; omega
  simp [winAt, List.find?, hc]

/-- The window of a layout is one of its windows or none. -/
theorem winAt_mem (layout : List Win) (a : Nat) : winAt layout a = Win.unmapped ∨ winAt layout a ∈ layout := by
  unfold winAt
  cases hf : layout.find? (fun w => w.covers a) with
  | none => simp
  | some w => right; simpa using List.mem_of_find?_eq_some hf

/-- PRG windows show PRG-ROM only (R140, R160, R191). -/
theorem prgWin_region (s : State) (a : Nat) : (prgWin s a).region = .prgRom := by
  have h : ∀ w ∈ prgLayout s, w.region = .prgRom := by
    unfold prgLayout swapPrgLayout serialPrgLayout scanPrgLayout
    split
    · simp
    · split <;> simp
    · simp
  rcases winAt_mem (prgLayout s) a with hw | hw
  · simp [prgWin, hw, Win.unmapped]
  · exact h _ hw

/-- Every CHR window shows the CHR region (R141, R161, R192). -/
theorem chrLayout_region (s : State) : ∀ w ∈ chrLayout s, w.region = .chr := by
  unfold chrLayout swapChrLayout serialChrLayout scanChrLayout scanChr1K scanChr2K
  split
  · simp
  · split <;> simp
  · split <;> simp

/-- No window a graphics write goes through shows PRG-RAM, and PRG-ROM is not writable: such a write stores into CHR
or nowhere (R104, R118). -/
theorem chrWin_region (s : State) (a : Nat) : (chrWin s a).region = .chr ∨ (chrWin s a).region = .prgRom := by
  rcases winAt_mem (chrLayout s) a with hw | hw
  · right; simp [chrWin, hw, Win.unmapped]
  · left; exact chrLayout_region s _ hw

end Sys2Proof.Machine
end

