-- ==== Sys2Proof/Laws/Exec.lean ====
section
/-! SUPPORT. Everything a transaction can do to the state, said once: proofs about all instructions cite this inversion
and unfold no meaning. -/

namespace Sys2Proof.Machine

/-- The four shapes of a next state: a result and nothing else; an open-bus draw; one store through a window, by
`CW.PRGRAM` or `PW.CHR`; new registers of the same variant. -/
inductive Effect (i : Instr) (s t : State) : Prop where
  | result (x : Result) (h : t = returning s x)
  | draw (h : t = returningOpenBus s)
  | store (w : Win) (a : Addr) (v : Byte) (hi : i = .cwPrgRam a v ∧ w = prgRamWin ∨ i = .pwChr a v ∧ w = chrWin s a.toNat)
      (h : t = returning (winWrite s w a.toNat v) .nothing)
  | registers (g : Regs) (hv : Regs.variant g = s.variant) (h : t = setRegs s g)

/-- A transaction that goes on has one of the four effects. -/
theorem exec_effect {i : Instr} {s t : State} (h : exec i s = .next t) : Effect i s t := by
  cases i <;> simp only [exec] at h
  case refusedCrUnrouted => cases h
  case refusedCwUnrouted => cases h
  case crOpen => exact .draw (Host.Outcome.next.inj h).symm
  case cwOpen => exact .result _ (Host.Outcome.next.inj h).symm
  case crPrgRam =>
    unfold execCrPrgRam at h
    split at h
    · exact .result _ (Host.Outcome.next.inj h).symm
    · exact .draw (Host.Outcome.next.inj h).symm
  case cwPrgRam a v =>
    unfold execCwPrgRam at h
    split at h
    · exact .store _ a v (.inl ⟨rfl, rfl⟩) (Host.Outcome.next.inj h).symm
    · exact .result _ (Host.Outcome.next.inj h).symm
  case crPrgRom => exact .result _ (Host.Outcome.next.inj h).symm
  case prChr => exact .result _ (Host.Outcome.next.inj h).symm
  case pwChr a v => exact .store _ a v (.inr ⟨rfl, rfl⟩) (Host.Outcome.next.inj h).symm
  case tick level =>
    refine .registers _ ?_ (Host.Outcome.next.inj h).symm
    simp only [State.variant]
    cases s.regs <;> rfl
  case reset => exact .registers _ (resetRegs_variant _ _ _) (Host.Outcome.next.inj h).symm
  case irqPending => exact .result _ (Host.Outcome.next.inj h).symm
  case irqAck =>
    refine .registers _ ?_ (Host.Outcome.next.inj h).symm
    simp only [State.variant]
    cases s.regs <;> rfl
  case getMirroring => exact .result _ (Host.Outcome.next.inj h).symm
  case save => exact .result _ (Host.Outcome.next.inj h).symm
  case restore blob =>
    unfold execRestore at h
    split at h
    · refine .registers _ ?_ (Host.Outcome.next.inj h).symm
      cases s.variant <;> rfl
    · cases h
  all_goals
    first
    | (obtain ⟨r, hr, rfl⟩ := updateSwap_next h; exact .registers _ (by simp [State.variant, hr]) rfl)
    | (obtain ⟨r, hr, rfl⟩ := updateSerial_next h; exact .registers _ (by simp [State.variant, hr]) rfl)
    | (obtain ⟨r, hr, rfl⟩ := updateScan_next h; exact .registers _ (by simp [State.variant, hr]) rfl)

/-- No meaning faults (R271). -/
theorem exec_ne_fault (i : Instr) (s : State) (f : Fault) : exec i s ≠ .fault f := by
  cases i <;>
    simp only [exec, execRefusedCrUnrouted, execRefusedCwUnrouted, execCrOpen, execCwOpen, execCrPrgRam, execCwPrgRam,
      execCrPrgRom, execPrChr, execPwChr, execTick, execReset, execIrqPending, execIrqAck, execGetMirroring, execSave,
      execRestore, execCwSwapBank, execCwSerialReset, execCwSerialCtrl, execCwSerialChr0, execCwSerialChr1,
      execCwSerialPrg, execCwScanBankSelect, execCwScanBankData, execCwScanMirroring, execCwScanPrgRamProtect,
      execCwScanIrqLatch, execCwScanIrqReload, execCwScanIrqDisable, execCwScanIrqEnable, updateSwap, updateSerial,
      updateScan] <;>
    first
    | (simp; done)
    | (split <;> simp)

end Sys2Proof.Machine
end

