-- ==== Sys2Proof/Laws/PerInstr.lean ====
section
/-! SUPPORT. Statements about every instruction as syntax, one lemma per constructor. -/

namespace Sys2Proof

/-- The kind code of an instruction (R82). -/
def Laws.kindCode : Instr → BitVec 4
  | .refusedCrUnrouted _ => 0#4
  | .refusedCwUnrouted _ _ => 1#4
  | .crOpen _ => 0#4
  | .cwOpen _ _ => 1#4
  | .crPrgRam _ => 0#4
  | .cwPrgRam _ _ => 1#4
  | .crPrgRom _ => 0#4
  | .prChr _ => 2#4
  | .pwChr _ _ => 3#4
  | .tick _ => 4#4
  | .reset => 5#4
  | .irqPending => 6#4
  | .irqAck => 7#4
  | .getMirroring => 8#4
  | .save => 9#4
  | .restore _ => 10#4
  | .cwSwapBank _ _ => 1#4
  | .cwSerialReset _ _ => 1#4
  | .cwSerialCtrl _ _ => 1#4
  | .cwSerialChr0 _ _ => 1#4
  | .cwSerialChr1 _ _ => 1#4
  | .cwSerialPrg _ _ => 1#4
  | .cwScanBankSelect _ _ => 1#4
  | .cwScanBankData _ _ => 1#4
  | .cwScanMirroring _ _ => 1#4
  | .cwScanPrgRamProtect _ _ => 1#4
  | .cwScanIrqLatch _ _ => 1#4
  | .cwScanIrqReload _ _ => 1#4
  | .cwScanIrqDisable _ _ => 1#4
  | .cwScanIrqEnable _ _ => 1#4

/-- The address field an instruction's word carries (R82). -/
def Laws.addrField : Instr → Addr
  | .refusedCrUnrouted a => a
  | .refusedCwUnrouted a _ => a
  | .crOpen a => a
  | .cwOpen a _ => a
  | .crPrgRam a => a
  | .cwPrgRam a _ => a
  | .crPrgRom a => a
  | .prChr a => a
  | .pwChr a _ => a
  | .tick _ => 0#16
  | .reset => 0#16
  | .irqPending => 0#16
  | .irqAck => 0#16
  | .getMirroring => 0#16
  | .save => 0#16
  | .restore _ => 0#16
  | .cwSwapBank a _ => a
  | .cwSerialReset a _ => a
  | .cwSerialCtrl a _ => a
  | .cwSerialChr0 a _ => a
  | .cwSerialChr1 a _ => a
  | .cwSerialPrg a _ => a
  | .cwScanBankSelect a _ => a
  | .cwScanBankData a _ => a
  | .cwScanMirroring a _ => a
  | .cwScanPrgRamProtect a _ => a
  | .cwScanIrqLatch a _ => a
  | .cwScanIrqReload a _ => a
  | .cwScanIrqDisable a _ => a
  | .cwScanIrqEnable a _ => a

/-- The data field an instruction's word carries (R82). -/
def Laws.dataField : Instr → Byte
  | .refusedCrUnrouted _ => 0#8
  | .refusedCwUnrouted _ v => v
  | .crOpen _ => 0#8
  | .cwOpen _ v => v
  | .crPrgRam _ => 0#8
  | .cwPrgRam _ v => v
  | .crPrgRom _ => 0#8
  | .prChr _ => 0#8
  | .pwChr _ v => v
  | .tick level => levelByte level
  | .reset => 0#8
  | .irqPending => 0#8
  | .irqAck => 0#8
  | .getMirroring => 0#8
  | .save => 0#8
  | .restore _ => 0#8
  | .cwSwapBank _ v => v
  | .cwSerialReset _ v => v
  | .cwSerialCtrl _ v => v
  | .cwSerialChr0 _ v => v
  | .cwSerialChr1 _ v => v
  | .cwSerialPrg _ v => v
  | .cwScanBankSelect _ v => v
  | .cwScanBankData _ v => v
  | .cwScanMirroring _ v => v
  | .cwScanPrgRamProtect _ v => v
  | .cwScanIrqLatch _ v => v
  | .cwScanIrqReload _ v => v
  | .cwScanIrqDisable _ v => v
  | .cwScanIrqEnable _ v => v

/-- The encoded word has the kind, address and data fields R82 gives the instruction, and the reserved field 0. -/
def Laws.EncodeFields.Statement (i : Instr) : Prop :=
  kindOf (encode i).word = Laws.kindCode i ∧ zOf (encode i).word = 0#4 ∧
    addrOf (encode i).word = Laws.addrField i ∧ dataOf (encode i).word = Laws.dataField i

theorem Laws.EncodeFields.refusedCrUnrouted (a : Addr) : Laws.EncodeFields.Statement (.refusedCrUnrouted a) :=
  ⟨kindOf_wordOf .., zOf_wordOf .., addrOf_wordOf .., dataOf_wordOf ..⟩

theorem Laws.EncodeFields.refusedCwUnrouted (a : Addr) (v : Byte) : Laws.EncodeFields.Statement (.refusedCwUnrouted a v) :=
  ⟨kindOf_wordOf .., zOf_wordOf .., addrOf_wordOf .., dataOf_wordOf ..⟩

theorem Laws.EncodeFields.crOpen (a : Addr) : Laws.EncodeFields.Statement (.crOpen a) :=
  ⟨kindOf_wordOf .., zOf_wordOf .., addrOf_wordOf .., dataOf_wordOf ..⟩

theorem Laws.EncodeFields.cwOpen (a : Addr) (v : Byte) : Laws.EncodeFields.Statement (.cwOpen a v) :=
  ⟨kindOf_wordOf .., zOf_wordOf .., addrOf_wordOf .., dataOf_wordOf ..⟩

theorem Laws.EncodeFields.crPrgRam (a : Addr) : Laws.EncodeFields.Statement (.crPrgRam a) :=
  ⟨kindOf_wordOf .., zOf_wordOf .., addrOf_wordOf .., dataOf_wordOf ..⟩

theorem Laws.EncodeFields.cwPrgRam (a : Addr) (v : Byte) : Laws.EncodeFields.Statement (.cwPrgRam a v) :=
  ⟨kindOf_wordOf .., zOf_wordOf .., addrOf_wordOf .., dataOf_wordOf ..⟩

theorem Laws.EncodeFields.crPrgRom (a : Addr) : Laws.EncodeFields.Statement (.crPrgRom a) :=
  ⟨kindOf_wordOf .., zOf_wordOf .., addrOf_wordOf .., dataOf_wordOf ..⟩

theorem Laws.EncodeFields.prChr (a : Addr) : Laws.EncodeFields.Statement (.prChr a) :=
  ⟨kindOf_wordOf .., zOf_wordOf .., addrOf_wordOf .., dataOf_wordOf ..⟩

theorem Laws.EncodeFields.pwChr (a : Addr) (v : Byte) : Laws.EncodeFields.Statement (.pwChr a v) :=
  ⟨kindOf_wordOf .., zOf_wordOf .., addrOf_wordOf .., dataOf_wordOf ..⟩

theorem Laws.EncodeFields.tick (level : Bool) : Laws.EncodeFields.Statement (.tick level) :=
  ⟨kindOf_wordOf .., zOf_wordOf .., addrOf_wordOf .., dataOf_wordOf ..⟩

theorem Laws.EncodeFields.reset : Laws.EncodeFields.Statement (.reset) :=
  ⟨kindOf_wordOf .., zOf_wordOf .., addrOf_wordOf .., dataOf_wordOf ..⟩

theorem Laws.EncodeFields.irqPending : Laws.EncodeFields.Statement (.irqPending) :=
  ⟨kindOf_wordOf .., zOf_wordOf .., addrOf_wordOf .., dataOf_wordOf ..⟩

theorem Laws.EncodeFields.irqAck : Laws.EncodeFields.Statement (.irqAck) :=
  ⟨kindOf_wordOf .., zOf_wordOf .., addrOf_wordOf .., dataOf_wordOf ..⟩

theorem Laws.EncodeFields.getMirroring : Laws.EncodeFields.Statement (.getMirroring) :=
  ⟨kindOf_wordOf .., zOf_wordOf .., addrOf_wordOf .., dataOf_wordOf ..⟩

theorem Laws.EncodeFields.save : Laws.EncodeFields.Statement (.save) :=
  ⟨kindOf_wordOf .., zOf_wordOf .., addrOf_wordOf .., dataOf_wordOf ..⟩

theorem Laws.EncodeFields.restore (blob : Blob) : Laws.EncodeFields.Statement (.restore blob) :=
  ⟨kindOf_wordOf .., zOf_wordOf .., addrOf_wordOf .., dataOf_wordOf ..⟩

theorem Laws.EncodeFields.cwSwapBank (a : Addr) (v : Byte) : Laws.EncodeFields.Statement (.cwSwapBank a v) :=
  ⟨kindOf_wordOf .., zOf_wordOf .., addrOf_wordOf .., dataOf_wordOf ..⟩

theorem Laws.EncodeFields.cwSerialReset (a : Addr) (v : Byte) : Laws.EncodeFields.Statement (.cwSerialReset a v) :=
  ⟨kindOf_wordOf .., zOf_wordOf .., addrOf_wordOf .., dataOf_wordOf ..⟩

theorem Laws.EncodeFields.cwSerialCtrl (a : Addr) (v : Byte) : Laws.EncodeFields.Statement (.cwSerialCtrl a v) :=
  ⟨kindOf_wordOf .., zOf_wordOf .., addrOf_wordOf .., dataOf_wordOf ..⟩

theorem Laws.EncodeFields.cwSerialChr0 (a : Addr) (v : Byte) : Laws.EncodeFields.Statement (.cwSerialChr0 a v) :=
  ⟨kindOf_wordOf .., zOf_wordOf .., addrOf_wordOf .., dataOf_wordOf ..⟩

theorem Laws.EncodeFields.cwSerialChr1 (a : Addr) (v : Byte) : Laws.EncodeFields.Statement (.cwSerialChr1 a v) :=
  ⟨kindOf_wordOf .., zOf_wordOf .., addrOf_wordOf .., dataOf_wordOf ..⟩

theorem Laws.EncodeFields.cwSerialPrg (a : Addr) (v : Byte) : Laws.EncodeFields.Statement (.cwSerialPrg a v) :=
  ⟨kindOf_wordOf .., zOf_wordOf .., addrOf_wordOf .., dataOf_wordOf ..⟩

theorem Laws.EncodeFields.cwScanBankSelect (a : Addr) (v : Byte) : Laws.EncodeFields.Statement (.cwScanBankSelect a v) :=
  ⟨kindOf_wordOf .., zOf_wordOf .., addrOf_wordOf .., dataOf_wordOf ..⟩

theorem Laws.EncodeFields.cwScanBankData (a : Addr) (v : Byte) : Laws.EncodeFields.Statement (.cwScanBankData a v) :=
  ⟨kindOf_wordOf .., zOf_wordOf .., addrOf_wordOf .., dataOf_wordOf ..⟩

theorem Laws.EncodeFields.cwScanMirroring (a : Addr) (v : Byte) : Laws.EncodeFields.Statement (.cwScanMirroring a v) :=
  ⟨kindOf_wordOf .., zOf_wordOf .., addrOf_wordOf .., dataOf_wordOf ..⟩

theorem Laws.EncodeFields.cwScanPrgRamProtect (a : Addr) (v : Byte) : Laws.EncodeFields.Statement (.cwScanPrgRamProtect a v) :=
  ⟨kindOf_wordOf .., zOf_wordOf .., addrOf_wordOf .., dataOf_wordOf ..⟩

theorem Laws.EncodeFields.cwScanIrqLatch (a : Addr) (v : Byte) : Laws.EncodeFields.Statement (.cwScanIrqLatch a v) :=
  ⟨kindOf_wordOf .., zOf_wordOf .., addrOf_wordOf .., dataOf_wordOf ..⟩

theorem Laws.EncodeFields.cwScanIrqReload (a : Addr) (v : Byte) : Laws.EncodeFields.Statement (.cwScanIrqReload a v) :=
  ⟨kindOf_wordOf .., zOf_wordOf .., addrOf_wordOf .., dataOf_wordOf ..⟩

theorem Laws.EncodeFields.cwScanIrqDisable (a : Addr) (v : Byte) : Laws.EncodeFields.Statement (.cwScanIrqDisable a v) :=
  ⟨kindOf_wordOf .., zOf_wordOf .., addrOf_wordOf .., dataOf_wordOf ..⟩

theorem Laws.EncodeFields.cwScanIrqEnable (a : Addr) (v : Byte) : Laws.EncodeFields.Statement (.cwScanIrqEnable a v) :=
  ⟨kindOf_wordOf .., zOf_wordOf .., addrOf_wordOf .., dataOf_wordOf ..⟩

end Sys2Proof
end

