-- ==== Sys2Proof/Laws/Runs.lean ====
section
/-! SUPPORT. Runs of several steps: one step of a decoded transaction, and runs put end to end. -/

namespace Sys2Proof.Machine

/-- The next transaction decodes to `i`: the step is `i` in the issued state. -/
theorem step_decoded {s : State} {q : Request} {rest : List Request} {i : Instr} (hp : s.pending = q :: rest)
    (hd : decode s.variant q = .ok i) : step s = exec i (issued s rest) := by
  simp only [step, hp, hd]

/-- A run of `j + k` steps whose first `j` go on to `t` is the run of `k` steps from `t`. -/
theorem steps_add {j k : Nat} {s t : State} (h : steps j s = .next t) : steps (j + k) s = steps k t := by
  induction j generalizing s with
  | zero =>
    simp only [steps] at h
    cases h
    rw [Nat.zero_add]
  | succ j ih =>
    rw [show j + 1 + k = j + k + 1 by omega]
    simp only [steps] at h ⊢
    split at h
    · exact ih h
    · cases h
    · cases h

end Sys2Proof.Machine
end

