-- ==== Sys2Proof/Tests/Slice0.lean ====
section
/-! SUPPORT. Tests of the model's own: ill-formed terms that WellFormed refuses, one word per row written out from
spec/opcode_table.json, single steps whose expected results are the vectors of spec/95_test_vectors.md, and for every
obligation with hypotheses a concrete witness of each of its clauses, at the ends of its ranges. -/

namespace Sys2Proof.Tests

open Sys2Proof.Machine

/-! ### The instances of 95_test_vectors.md section 0 -/

/-- An image of `n` 1K pages, of which only the first byte of each page is listed: the number of the page. -/
def pages (n : Nat) : Memory :=
  ((List.range n).map fun p => (p * 1024, BitVec.ofNat 8 p)).filter fun c => c.2 != 0#8

/-- `SW4`. -/
def sw4 : State := { State.reset with
  header := { prgBanks16 := 4, chrBanks8 := 1, hasBatteryRam := false, mirroringFlag := .vertical }
  regs := .swap { prgBank := 0x00#8 }
  prgRom := pages 64
  chr := pages 8 }

/-- `SW2R`, with CHR-RAM. -/
def sw2r : State := { State.reset with
  header := { prgBanks16 := 2, chrBanks8 := 0, hasBatteryRam := false, mirroringFlag := .horizontal }
  regs := .swap { prgBank := 0x00#8 }
  prgRom := pages 32 }

/-- The SERIAL registers of R294. -/
def serialRegs : SerialRegs :=
  { shiftRegister := 0#5, writeCount := 0, control := 0x0C#5, prg := 0#5, chr0 := 0#5, chr1 := 0#5 }

/-- `SE8` with the registers `r`. -/
def se8 (r : SerialRegs) : State := { State.reset with
  header := { prgBanks16 := 8, chrBanks8 := 2, hasBatteryRam := false, mirroringFlag := .horizontal }
  regs := .serial r
  prgRom := pages 128
  chr := pages 16 }

/-- `SE1` with the registers `r`. -/
def se1 (r : SerialRegs) : State := { State.reset with
  header := { prgBanks16 := 1, chrBanks8 := 0, hasBatteryRam := true, mirroringFlag := .vertical }
  regs := .serial r
  prgRom := pages 16 }

/-- The SCAN registers of R295. -/
def scanRegs : ScanRegs :=
  { bankSelect := 0x00#8, bankRegisters := #v[0#8, 0#8, 0#8, 0#8, 0#8, 0#8, 0#8, 0#8], mirroring := 0#1
    prgRamProtect := 0x80#8, irqLatch := 0#8, irqCounter := 0#8, irqEnable := false, irqReload := false
    irqPending := false, a12LowRun := 0 }

/-- `SC4` with the registers `r`. -/
def sc4 (r : ScanRegs) : State := { State.reset with
  regs := .scan r
  prgRom := pages 64
  chr := pages 8 }

/-- `SC4F`, with a FourScreen header. -/
def sc4f : State := { sc4 scanRegs with
  header := { prgBanks16 := 4, chrBanks8 := 1, hasBatteryRam := false, mirroringFlag := .fourScreen } }

/-- One step on one word. -/
def run1 (s : State) (w : Word) (b : Blob := []) : Host.Outcome State Fault Refusal :=
  step { s with pending := [{ word := w, blob := b }] }

/-- The state a step goes on to. -/
def nextOf : Host.Outcome State Fault Refusal → Option State
  | .next t => some t
  | .fault _ => none
  | .refused _ => none

/-- What a step on one word returns. -/
def resultOf (s : State) (w : Word) (b : Blob := []) : Option Result := (nextOf (run1 s w b)).map (·.result)

/-- The registers after a step on one word. -/
def regsOf (s : State) (w : Word) (b : Blob := []) : Option Regs := (nextOf (run1 s w b)).map (·.regs)

/-! ### WellFormed refuses an ill-formed term, check by check -/

theorem test_ill_refusedCrUnrouted : (Instr.refusedCrUnrouted 0x4020#16).wellFormed .swap = false := by decide
theorem test_ill_refusedCwUnrouted : (Instr.refusedCwUnrouted 0x3FFF#16 0#8).wellFormed .swap = false := by decide
theorem test_ill_crOpen : (Instr.crOpen 0x401F#16).wellFormed .swap = false := by decide
theorem test_ill_cwOpen : (Instr.cwOpen 0x6000#16 0#8).wellFormed .swap = false := by decide
theorem test_ill_crPrgRam : (Instr.crPrgRam 0x5FFF#16).wellFormed .serial = false := by decide
theorem test_ill_cwPrgRam : (Instr.cwPrgRam 0x8000#16 0#8).wellFormed .serial = false := by decide
theorem test_ill_crPrgRom : (Instr.crPrgRom 0x7FFF#16).wellFormed .scan = false := by decide
theorem test_ill_prChr : (Instr.prChr 0x2000#16).wellFormed .scan = false := by decide
theorem test_ill_pwChr : (Instr.pwChr 0xFFFF#16 0#8).wellFormed .scan = false := by decide
theorem test_ill_cwSwapBank_address : (Instr.cwSwapBank 0x7FFF#16 0#8).wellFormed .swap = false := by decide
theorem test_ill_cwSwapBank_variant : (Instr.cwSwapBank 0x8000#16 0#8).wellFormed .serial = false := by decide
theorem test_ill_cwSerialReset_data : (Instr.cwSerialReset 0x8000#16 0x7F#8).wellFormed .serial = false := by decide
theorem test_ill_cwSerialReset_address : (Instr.cwSerialReset 0x7FFF#16 0x80#8).wellFormed .serial = false := by
  decide
theorem test_ill_cwSerialCtrl : (Instr.cwSerialCtrl 0xA000#16 0x01#8).wellFormed .serial = false := by decide
theorem test_ill_cwSerialCtrl_data : (Instr.cwSerialCtrl 0x8000#16 0x80#8).wellFormed .serial = false := by decide
theorem test_ill_cwSerialChr0 : (Instr.cwSerialChr0 0x9FFF#16 0x01#8).wellFormed .serial = false := by decide
theorem test_ill_cwSerialChr0_data : (Instr.cwSerialChr0 0xA000#16 0x81#8).wellFormed .serial = false := by decide
theorem test_ill_cwSerialChr1 : (Instr.cwSerialChr1 0xE000#16 0x01#8).wellFormed .serial = false := by decide
theorem test_ill_cwSerialChr1_data : (Instr.cwSerialChr1 0xC000#16 0xFF#8).wellFormed .serial = false := by decide
theorem test_ill_cwSerialPrg : (Instr.cwSerialPrg 0xDFFF#16 0x01#8).wellFormed .serial = false := by decide
theorem test_ill_cwSerialPrg_data : (Instr.cwSerialPrg 0xE000#16 0x80#8).wellFormed .serial = false := by decide
theorem test_ill_cwSerial_variant : (Instr.cwSerialPrg 0xE000#16 0x01#8).wellFormed .scan = false := by decide
theorem test_ill_cwScanBankSelect : (Instr.cwScanBankSelect 0x8001#16 0#8).wellFormed .scan = false := by decide
theorem test_ill_cwScanBankData : (Instr.cwScanBankData 0x8000#16 0#8).wellFormed .scan = false := by decide
theorem test_ill_cwScanMirroring : (Instr.cwScanMirroring 0xA001#16 0#8).wellFormed .scan = false := by decide
theorem test_ill_cwScanPrgRamProtect : (Instr.cwScanPrgRamProtect 0xC001#16 0#8).wellFormed .scan = false := by decide
theorem test_ill_cwScanIrqLatch : (Instr.cwScanIrqLatch 0xE000#16 0#8).wellFormed .scan = false := by decide
theorem test_ill_cwScanIrqReload : (Instr.cwScanIrqReload 0xC000#16 0#8).wellFormed .scan = false := by decide
theorem test_ill_cwScanIrqDisable : (Instr.cwScanIrqDisable 0xE001#16 0#8).wellFormed .scan = false := by decide
theorem test_ill_cwScanIrqEnable : (Instr.cwScanIrqEnable 0xDFFF#16 0#8).wellFormed .scan = false := by decide
theorem test_ill_cwScan_variant : (Instr.cwScanIrqEnable 0xE001#16 0#8).wellFormed .serial = false := by decide

/-! ### One word per row, written out from the table and from vectors V8 and V9 -/

theorem test_decode_refusedCrUnrouted :
    decode .swap { word := 0x00401F00#32 } = .ok (.refusedCrUnrouted 0x401F#16) := by rfl
theorem test_decode_refusedCwUnrouted :
    decode .scan { word := 0x10401F55#32 } = .ok (.refusedCwUnrouted 0x401F#16 0x55#8) := by rfl
theorem test_decode_crOpen : decode .serial { word := 0x00402000#32 } = .ok (.crOpen 0x4020#16) := by rfl
theorem test_decode_cwOpen : decode .swap { word := 0x10500012#32 } = .ok (.cwOpen 0x5000#16 0x12#8) := by rfl
theorem test_decode_crPrgRam : decode .swap { word := 0x007FFF00#32 } = .ok (.crPrgRam 0x7FFF#16) := by rfl
theorem test_decode_cwPrgRam :
    decode .scan { word := 0x106000AB#32 } = .ok (.cwPrgRam 0x6000#16 0xAB#8) := by rfl
theorem test_decode_crPrgRom : decode .serial { word := 0x00800500#32 } = .ok (.crPrgRom 0x8005#16) := by rfl
theorem test_decode_prChr : decode .scan { word := 0x201FFF00#32 } = .ok (.prChr 0x1FFF#16) := by rfl
theorem test_decode_pwChr : decode .swap { word := 0x3001235A#32 } = .ok (.pwChr 0x0123#16 0x5A#8) := by rfl
theorem test_decode_tick_low : decode .scan { word := 0x40000000#32 } = .ok (.tick false) := by rfl
theorem test_decode_tick_high : decode .scan { word := 0x40000001#32 } = .ok (.tick true) := by rfl
theorem test_decode_reset : decode .swap { word := 0x50000000#32 } = .ok .reset := by rfl
theorem test_decode_irqPending : decode .swap { word := 0x60000000#32 } = .ok .irqPending := by rfl
theorem test_decode_irqAck : decode .swap { word := 0x70000000#32 } = .ok .irqAck := by rfl
theorem test_decode_getMirroring : decode .swap { word := 0x80000000#32 } = .ok .getMirroring := by rfl
theorem test_decode_save : decode .swap { word := 0x90000000#32 } = .ok .save := by rfl
theorem test_decode_restore :
    decode .swap { word := 0xA0000000#32, blob := [0x02#8, 0x05#8] } = .ok (.restore [0x02#8, 0x05#8]) := by rfl
theorem test_decode_cwSwapBank :
    decode .swap { word := 0x10923406#32 } = .ok (.cwSwapBank 0x9234#16 0x06#8) := by rfl
theorem test_decode_cwSerialReset :
    decode .serial { word := 0x10FFFF81#32 } = .ok (.cwSerialReset 0xFFFF#16 0x81#8) := by rfl
theorem test_decode_cwSerialCtrl :
    decode .serial { word := 0x10800001#32 } = .ok (.cwSerialCtrl 0x8000#16 0x01#8) := by rfl
theorem test_decode_cwSerialChr0 :
    decode .serial { word := 0x10A00001#32 } = .ok (.cwSerialChr0 0xA000#16 0x01#8) := by rfl
theorem test_decode_cwSerialChr1 :
    decode .serial { word := 0x10C00100#32 } = .ok (.cwSerialChr1 0xC001#16 0x00#8) := by rfl
theorem test_decode_cwSerialPrg :
    decode .serial { word := 0x10E00100#32 } = .ok (.cwSerialPrg 0xE001#16 0x00#8) := by rfl
theorem test_decode_cwScanBankSelect :
    decode .scan { word := 0x10800080#32 } = .ok (.cwScanBankSelect 0x8000#16 0x80#8) := by rfl
theorem test_decode_cwScanBankData :
    decode .scan { word := 0x109FFF07#32 } = .ok (.cwScanBankData 0x9FFF#16 0x07#8) := by rfl
theorem test_decode_cwScanMirroring :
    decode .scan { word := 0x10A00001#32 } = .ok (.cwScanMirroring 0xA000#16 0x01#8) := by rfl
theorem test_decode_cwScanPrgRamProtect :
    decode .scan { word := 0x10A001C0#32 } = .ok (.cwScanPrgRamProtect 0xA001#16 0xC0#8) := by rfl
theorem test_decode_cwScanIrqLatch :
    decode .scan { word := 0x10C00003#32 } = .ok (.cwScanIrqLatch 0xC000#16 0x03#8) := by rfl
theorem test_decode_cwScanIrqReload :
    decode .scan { word := 0x10C00100#32 } = .ok (.cwScanIrqReload 0xC001#16 0x00#8) := by rfl
theorem test_decode_cwScanIrqDisable :
    decode .scan { word := 0x10E00000#32 } = .ok (.cwScanIrqDisable 0xE000#16 0x00#8) := by rfl
theorem test_decode_cwScanIrqEnable :
    decode .scan { word := 0x10FFFF81#32 } = .ok (.cwScanIrqEnable 0xFFFF#16 0x81#8) := by rfl

/-- Vector V8, reason by reason. -/
theorem test_decode_refusals :
    decode .swap { word := 0xB0000000#32 } = .error .reservedKind ∧
    decode .serial { word := 0xF0000000#32 } = .error .reservedKind ∧
    decode .scan { word := 0x01800000#32 } = .error .reservedBits ∧
    decode .swap { word := 0x00001200#32 } = .error .unroutedCpuAddress ∧
    decode .swap { word := 0x003FFF00#32 } = .error .unroutedCpuAddress ∧
    decode .serial { word := 0x20200000#32 } = .error .unroutedPpuAddress ∧
    decode .scan { word := 0x30FFFF00#32 } = .error .unroutedPpuAddress ∧
    decode .swap { word := 0x00800001#32 } = .error .nonzeroUnusedField ∧
    decode .serial { word := 0x40000002#32 } = .error .nonzeroUnusedField ∧
    decode .scan { word := 0x40000100#32 } = .error .nonzeroUnusedField ∧
    decode .scan { word := 0x50000001#32 } = .error .nonzeroUnusedField ∧
    decode .scan { word := 0x60000100#32 } = .error .nonzeroUnusedField ∧
    decode .scan { word := 0x20000001#32 } = .error .nonzeroUnusedField :=
  ⟨rfl, rfl, rfl, rfl, rfl, rfl, rfl, rfl, rfl, rfl, rfl, rfl, rfl⟩

/-- The host's view: a table word runs as the first transaction after reset, here `RESTORE` with the reset blob. -/
theorem test_decodeTableWord : decodeTableWord 32 0xA0000000 = some (.restore tableBlob) := by rfl

theorem test_withFetchWord :
    (nextOf (step (State.reset.withFetchWord 32 0x10C00003))).map (·.regs) =
      some (.scan { scanRegs with irqLatch := 0x03#8 }) := by rfl

/-! ### Single steps -/

theorem test_refusedCrUnrouted : run1 sw4 0x00401F00#32 = .refused (.word .unroutedCpuAddress) := by rfl
theorem test_refusedCwUnrouted : run1 sw4 0x10401F55#32 = .refused (.word .unroutedCpuAddress) := by rfl

/-- V3: the value is the draw, whatever it is. -/
theorem test_crOpen : resultOf sw4 0x00402000#32 = some (.byte (Config.openBus 0)) := by rfl
theorem test_cwOpen : regsOf sw4 0x10500012#32 = some (.swap { prgBank := 0x00#8 }) := by rfl

/-- V4. -/
theorem test_cwPrgRam : (nextOf (run1 sw4 0x107FFFCD#32)).map (·.prgRam) = some [(0x1FFF, 0xCD#8)] := by rfl
theorem test_crPrgRam : resultOf { sw4 with prgRam := [(0x1FFF, 0xCD#8)] } 0x007FFF00#32 = some (.byte 0xCD#8) := by rfl

/-- R119: disabled PRG-RAM reads as open bus, write-protected PRG-RAM is not written. -/
theorem test_crPrgRam_disabled :
    resultOf (sc4 { scanRegs with prgRamProtect := 0x40#8 }) 0x00600000#32 = some (.byte (Config.openBus 0)) := by rfl
theorem test_cwPrgRam_protected :
    (nextOf (run1 (sc4 { scanRegs with prgRamProtect := 0xC0#8 }) 0x10600011#32)).map (·.prgRam) = some [] := by rfl

/-- E8, E3. -/
theorem test_crPrgRom_last : resultOf sw4 0x00C00000#32 = some (.byte 0x30#8) := by decide
/-- E2. -/
theorem test_crPrgRom_scan : resultOf (sc4 scanRegs) 0x00E00000#32 = some (.byte 0x38#8) := by decide

/-- V12. -/
theorem test_prChr : resultOf sw4 0x201C0000#32 = some (.byte 0x07#8) := by decide
/-- V6 and V5. -/
theorem test_pwChr_ram : (nextOf (run1 sw2r 0x3001235A#32)).map (·.chr) = some [(0x0123, 0x5A#8)] := by rfl
theorem test_pwChr_rom : (nextOf (run1 sw4 0x30000077#32)).map (·.chr) = some (pages 8) := by rfl

/-- E6, the clock that reaches 0: counter 1, enabled, one low tick seen. -/
theorem test_tick_high :
    regsOf (sc4 { scanRegs with irqLatch := 3#8, irqCounter := 1#8, irqEnable := true, a12LowRun := 1 })
      0x40000001#32 =
      some (.scan { scanRegs with irqLatch := 3#8, irqCounter := 0#8, irqEnable := true, irqPending := true }) := by rfl
/-- R220: the low run stops at the filter length. -/
theorem test_tick_low :
    regsOf (sc4 { scanRegs with a12LowRun := 1 }) 0x40000000#32 = some (.scan { scanRegs with a12LowRun := 1 }) := by rfl

/-- R290: a partial sequence is abandoned. -/
theorem test_reset :
    regsOf (se8 { serialRegs with shiftRegister := 0x18#5, writeCount := 2, prg := 5#5 }) 0x50000000#32 =
      some (.serial serialRegs) := by rfl
theorem test_irqPending :
    resultOf (sc4 { scanRegs with irqPending := true }) 0x60000000#32 = some (.flag true) := by rfl
theorem test_irqAck :
    regsOf (sc4 { scanRegs with irqPending := true, irqEnable := true }) 0x70000000#32 =
      some (.scan { scanRegs with irqEnable := true }) := by rfl
/-- R143, and R193 for a FourScreen header. -/
theorem test_getMirroring_swap : resultOf sw4 0x80000000#32 = some (.mirroring 1#3) := by rfl
theorem test_getMirroring_fourScreen : resultOf sc4f 0x80000000#32 = some (.mirroring 4#3) := by rfl
/-- E7: the blob of a partial sequence. -/
theorem test_save :
    resultOf (se8 { serialRegs with shiftRegister := 0x18#5, writeCount := 2 }) 0x90000000#32 =
      some (.blob [0x01#8, 0x18#8, 0x02#8, 0x0C#8, 0x00#8, 0x00#8, 0x00#8]) := by rfl
/-- E6, the blob after the fourth clock. -/
theorem test_save_scan :
    resultOf (sc4 { scanRegs with irqLatch := 3#8, irqEnable := true, irqPending := true }) 0x90000000#32 =
      some (.blob [0x04#8, 0x00#8, 0x00#8, 0x00#8, 0x00#8, 0x00#8, 0x00#8, 0x00#8, 0x00#8, 0x00#8, 0x00#8, 0x80#8,
        0x03#8, 0x00#8, 0x05#8, 0x00#8]) := by rfl
/-- E7. -/
theorem test_restore :
    regsOf (se8 serialRegs) 0xA0000000#32 [0x01#8, 0x18#8, 0x02#8, 0x0C#8, 0x00#8, 0x00#8, 0x00#8] =
      some (.serial { serialRegs with shiftRegister := 0x18#5, writeCount := 2 }) := by rfl
/-- R252: another variant's tag. -/
theorem test_restore_foreign : run1 (se8 serialRegs) 0xA0000000#32 [0x02#8, 0x05#8] = .refused .badBlob := by rfl

/-- E4. -/
theorem test_cwSwapBank : regsOf sw4 0x10923406#32 = some (.swap { prgBank := 0x06#8 }) := by rfl

/-- R163. -/
theorem test_cwSerialReset :
    regsOf (se8 { serialRegs with shiftRegister := 0x1C#5, writeCount := 3 }) 0x10E00080#32 =
      some (.serial serialRegs) := by rfl
/-- E5: the first bit lands in bit 4, the fifth write commits. -/
theorem test_cwSerialPrg_first :
    regsOf (se8 serialRegs) 0x10E00001#32 =
      some (.serial { serialRegs with shiftRegister := 0x10#5, writeCount := 1 }) := by rfl
theorem test_cwSerialPrg_fifth :
    regsOf (se8 { serialRegs with shiftRegister := 0x0A#5, writeCount := 4 }) 0x10E00000#32 =
      some (.serial { serialRegs with prg := 0x05#5 }) := by rfl
theorem test_cwSerialCtrl_fifth :
    regsOf (se8 { serialRegs with shiftRegister := 0x1E#5, writeCount := 4 }) 0x10800001#32 =
      some (.serial { serialRegs with control := 0x1F#5 }) := by rfl
theorem test_cwSerialChr0_fifth :
    regsOf (se8 { serialRegs with shiftRegister := 0x0C#5, writeCount := 4 }) 0x10BFFF00#32 =
      some (.serial { serialRegs with chr0 := 0x06#5 }) := by rfl
theorem test_cwSerialChr1_fifth :
    regsOf (se8 { serialRegs with shiftRegister := 0x06#5, writeCount := 4 }) 0x10C0007E#32 =
      some (.serial { serialRegs with chr1 := 0x03#5 }) := by rfl

theorem test_cwScanBankSelect :
    regsOf (sc4 scanRegs) 0x108000C6#32 = some (.scan { scanRegs with bankSelect := 0xC6#8 }) := by rfl
/-- R196: `bankSelect[2:0]` names R6. -/
theorem test_cwScanBankData :
    regsOf (sc4 { scanRegs with bankSelect := 0x46#8 }) 0x10800103#32 =
      some (.scan { scanRegs with
        bankSelect := 0x46#8, bankRegisters := #v[0#8, 0#8, 0#8, 0#8, 0#8, 0#8, 3#8, 0#8] }) := by rfl
/-- R197: only data bit 0. -/
theorem test_cwScanMirroring :
    regsOf (sc4 scanRegs) 0x10A000FF#32 = some (.scan { scanRegs with mirroring := 1#1 }) := by rfl
theorem test_cwScanPrgRamProtect :
    regsOf (sc4 scanRegs) 0x10A001C0#32 = some (.scan { scanRegs with prgRamProtect := 0xC0#8 }) := by rfl
theorem test_cwScanIrqLatch :
    regsOf (sc4 scanRegs) 0x10C00020#32 = some (.scan { scanRegs with irqLatch := 0x20#8 }) := by rfl
/-- R200: the counter is not changed. -/
theorem test_cwScanIrqReload :
    regsOf (sc4 { scanRegs with irqCounter := 7#8 }) 0x10C00100#32 =
      some (.scan { scanRegs with irqCounter := 7#8, irqReload := true }) := by rfl
theorem test_cwScanIrqDisable :
    regsOf (sc4 { scanRegs with irqEnable := true, irqPending := true }) 0x10E00000#32 = some (.scan scanRegs) := by rfl
theorem test_cwScanIrqEnable :
    regsOf (sc4 scanRegs) 0x10E00100#32 = some (.scan { scanRegs with irqEnable := true }) := by rfl

/-- A meaning of one variant is refused by name on another's instance, and no step runs without a transaction. -/
theorem test_wrongVariant : exec (.cwSwapBank 0x8000#16 0x01#8) (sc4 scanRegs) = .refused .wrongVariant := by rfl
theorem test_noTransaction : step State.reset = .refused .noTransaction := by rfl

/-! ### The bank window: vectors V1 and V2 -/

theorem test_resolveBank :
    resolveBank 5 4 = 1 ∧ resolveBank (-1) 4 = 3 ∧ resolveBank (-4) 4 = 0 ∧ resolveBank (-5) 4 = 3 ∧
      resolveBank (-9) 4 = 3 ∧ resolveBank (-2) 1 = 0 ∧ resolveBank 7 3 = 1 := by decide

theorem test_windowOffset :
    windowOffset 0x8000 size16K 65536 3 0xBFFF = 0x0FFFF ∧ windowOffset 0x8000 size32K 16384 0 0xC000 = 0x00000 ∧
      windowOffset 0x8000 size32K 16384 1 0xFFFF = 0x03FFF ∧ windowOffset 0x8000 size32K 49152 0 0xFFFF = 0x07FFF ∧
      windowOffset 0x1000 size4K 8192 3 0x1234 = 0x01234 ∧ windowOffset 0xC000 size8K 65536 (-2) 0xC001 = 0x0C001 := by
  decide

/-! ### Witnesses of the obligations' hypotheses, clause by clause, at the ends of their ranges -/

/-- A request of one word. -/
def word (w : Word) : Request := { word := w }

theorem witness_DecodeOfEncodeGivesTheInstruction :
    (Instr.crPrgRom 0xFFFF#16).wellFormed .swap = true ∧ (Instr.cwSerialPrg 0xE000#16 0x7F#8).wellFormed .serial = true ∧
      (Instr.cwScanIrqEnable 0xFFFF#16 0xFF#8).wellFormed .scan = true ∧
      (Instr.restore [0x02#8, 0x05#8]).wellFormed .swap = true := by decide

theorem witness_EncodeOfDecodeGivesTheWord :
    decode .scan (word 0x10FFFF81#32) = .ok (.cwScanIrqEnable 0xFFFF#16 0x81#8) ∧
      decode .swap { word := 0xA0000000#32, blob := [0x02#8] } = .ok (.restore [0x02#8]) := ⟨rfl, rfl⟩

/-- Rows 0 and 2, `REFUSED.CR_UNROUTED` and `CR.OPEN`. -/
theorem witness_RowsOverlapOnlyAtRefusalRows :
    ∃ r r', opcodeTable[0]? = some r ∧ opcodeTable[2]? = some r' ∧ r.hits .swap 0x00401F00#32 = true ∧
      r'.hits .swap 0x00401F00#32 = true := ⟨_, _, rfl, rfl, rfl, rfl⟩

/-- The fields of one word per clause of R86, at the ends of its range. -/
theorem witness_IllegalTransactionsAreRefusedByReason :
    (kindOf 0xB0000000#32).toNat = 11 ∧ (kindOf 0xF0000000#32).toNat = 15 ∧
    (kindOf 0xAF000000#32).toNat = 10 ∧ zOf 0xAF000000#32 ≠ 0#4 ∧
    (kindOf 0x10401F00#32).toNat = 1 ∧ zOf 0x10401F00#32 = 0#4 ∧ (addrOf 0x10401F00#32).toNat = 0x401F ∧
    (kindOf 0x00000000#32).toNat = 0 ∧ (addrOf 0x00000000#32).toNat = 0 ∧
    (kindOf 0x20200000#32).toNat = 2 ∧ (addrOf 0x20200000#32).toNat = 0x2000 ∧
    (kindOf 0x30FFFF00#32).toNat = 3 ∧ (addrOf 0x30FFFF00#32).toNat = 0xFFFF ∧
    (addrOf 0x00402001#32).toNat = 0x4020 ∧ dataOf 0x00402001#32 ≠ 0#8 ∧
    (addrOf 0x201FFF01#32).toNat = 0x1FFF ∧ dataOf 0x201FFF01#32 ≠ 0#8 ∧
    (kindOf 0x40000002#32).toNat = 4 ∧ (dataOf 0x40000002#32).toNat = 2 ∧ addrOf 0x40000100#32 ≠ 0#16 ∧
    (kindOf 0x50000001#32).toNat = 5 ∧ dataOf 0x50000001#32 ≠ 0#8 ∧
    (kindOf 0xA0000100#32).toNat = 10 ∧ addrOf 0xA0000100#32 ≠ 0#16 ∧
    blobWellFormed sw4.params sw4.variant [0x02#8, 0x05#8, 0x00#8] = false := by decide

theorem witness_LegalTransactionsRunWithoutError :
    Claims.legalWord 0x00402000#32 ∧ Claims.legalWord 0x10FFFFFF#32 ∧ Claims.legalWord 0x201FFF00#32 ∧
      Claims.legalWord 0x301FFFFF#32 ∧ Claims.legalWord 0x40000001#32 ∧ Claims.legalWord 0x50000000#32 ∧
      Claims.legalWord 0xA0000000#32 ∧ blobWellFormed sw4.params sw4.variant [0x02#8, 0xFF#8] = true := by
  refine ⟨?_, ?_, ?_, ?_, ?_, ?_, ?_, by decide⟩ <;> unfold Claims.legalWord <;> decide

theorem witness_StepRunsTheDecodedInstruction :
    ({ sw4 with pending := [word 0x10800005#32, word 0x50000000#32] } : State).pending =
        word 0x10800005#32 :: [word 0x50000000#32] ∧
      decode sw4.variant (word 0x10800005#32) = .ok (.cwSwapBank 0x8000#16 0x05#8) := ⟨rfl, rfl⟩

theorem witness_UnroutedRowsAreRefused :
    (kindOf 0x103FFF00#32).toNat = 1 ∧ zOf 0x103FFF00#32 = 0#4 ∧ (addrOf 0x103FFF00#32).toNat = 0x3FFF ∧
      (addrOf 0x00400000#32).toNat = 0x4000 ∧ (addrOf 0x00401F01#32).toNat = 0x401F ∧
      dataOf 0x00401F01#32 ≠ 0#8 := by decide

theorem witness_ResolvedBankIsAlwaysABank : 1 ≤ 1 ∧ 2 ≤ 2 ∧ resolveBank (-9) 4 < 4 := by decide

/-- A region at least as long as the window, and the 32K window over one 16K bank. -/
theorem witness_WindowOffsetStaysInsideTheRegion :
    0 < size16K ∧ 0 < 65536 ∧ 0x8000 ≤ 0xBFFF ∧ 0xBFFF < 0x8000 + size16K ∧ size16K ≤ 65536 ∧
      0xFFFF < 0x8000 + size32K ∧ 16384 < size32K := by decide

theorem witness_LayoutsPartitionTheirBusRanges :
    (prgWin (sc4 scanRegs) 0xFFFF).covers 0xFFFF = true ∧ prgWin (sc4 scanRegs) 0x8000 ∈ prgLayout (sc4 scanRegs) ∧
      chrWin (sc4 scanRegs) 0x1FFF ∈ chrLayout (sc4 scanRegs) := by decide

theorem witness_TwoKWindowShowsTwoOneKBanks : 0 < 8192 ∧ 8192 % 2048 = 0 ∧ 1023 < 1024 := by decide

theorem witness_PrgRamReadFollowsItsGate :
    0x6000 ≤ (0x6000#16).toNat ∧ (0x7FFF#16).toNat ≤ 0x7FFF ∧
      (∀ r, sw4.regs = .scan r → r.prgRamProtect.getLsbD 7 = true) ∧
      ∃ r, (sc4 { scanRegs with prgRamProtect := 0x7F#8 }).regs = .scan r ∧ r.prgRamProtect.getLsbD 7 = false := by
  refine ⟨by decide, by decide, ?_, _, rfl, by decide⟩
  intro r h
  cases h

theorem witness_PrgRamWriteFollowsItsGate :
    0x6000 ≤ (0x6000#16).toNat ∧ (0x7FFF#16).toNat ≤ 0x7FFF ∧
      (∀ r, (sc4 scanRegs).regs = .scan r → r.prgRamProtect.getLsbD 7 = true ∧ r.prgRamProtect.getLsbD 6 = false) ∧
      ∃ r, (sc4 { scanRegs with prgRamProtect := 0xC0#8 }).regs = .scan r ∧
        (r.prgRamProtect.getLsbD 7 = false ∨ r.prgRamProtect.getLsbD 6 = true) := by
  refine ⟨by decide, by decide, ?_, _, rfl, by decide⟩
  intro r h
  cases h
  decide

theorem witness_PrgRamStoreChangesOneByte :
    sw4.wf = true ∧ prgRamWritable sw4 = true ∧
      exec (.cwPrgRam 0x7FFF#16 0xCD#8) sw4 = .next { sw4 with prgRam := [(0x1FFF, 0xCD#8)] } ∧
      prgRamWritable (sc4 { scanRegs with prgRamProtect := 0x00#8 }) = false ∧
      exec (.cwPrgRam 0x6000#16 0xCD#8) (sc4 { scanRegs with prgRamProtect := 0x00#8 }) =
        .next (sc4 { scanRegs with prgRamProtect := 0x00#8 }) := ⟨by decide, rfl, rfl, rfl, rfl⟩

theorem witness_ReadsGoThroughTheCoveringWindow :
    0x8000 ≤ (0x8000#16).toNat ∧ (0x1FFF#16).toNat ≤ 0x1FFF := by decide

theorem witness_ChrWriteStoresOnChrRamOnly :
    (0x1FFF#16).toNat ≤ 0x1FFF ∧ sw2r.header.chrBanks8 = 0 ∧ sw4.header.chrBanks8 ≠ 0 := by decide

theorem witness_ChrStoreReadsBackAndChangesOneByte :
    sw2r.wf = true ∧ (0x1FFF#16).toNat ≤ 0x1FFF ∧
      exec (.pwChr 0x1FFF#16 0x01#8) sw2r = .next { sw2r with chr := [(0x1FFF, 0x01#8)] } ∧
      exec (.pwChr 0x0000#16 0x77#8) sw4 = .next sw4 := ⟨by decide, by decide, rfl, rfl⟩

theorem witness_SwapReadsThroughItsLayout :
    sw4.regs = .swap { prgBank := 0x00#8 } ∧ 1 ≤ sw4.header.prgBanks16 ∧ 0x8000 ≤ (0x8000#16).toNat ∧
      (0xBFFF#16).toNat ≤ 0xBFFF ∧ 0xC000 ≤ (0xC000#16).toNat ∧ (0x1FFF#16).toNat ≤ 0x1FFF :=
  ⟨rfl, by decide, by decide, by decide, by decide, by decide⟩

theorem witness_SwapBankWriteSetsPrgBank : sw4.regs = .swap { prgBank := 0x00#8 } := rfl

theorem witness_SwapWriteMovesOnlyWindowZero :
    sw4.regs = .swap { prgBank := 0x00#8 } ∧ 1 ≤ sw4.header.prgBanks16 ∧ 0x8000 ≤ (0xBFFF#16).toNat ∧
      (0xBFFF#16).toNat ≤ 0xBFFF ∧ 0xC000 ≤ (0xC000#16).toNat := ⟨rfl, by decide, by decide, by decide, by decide⟩

/-- The four PRG modes, over eight 16K banks and over one, at the ends of each window. -/
theorem witness_SerialReadsThroughItsPrgLayout :
    (se8 { serialRegs with control := 0x04#5 }).regs = .serial { serialRegs with control := 0x04#5 } ∧
      (0x04#5).toNat / 4 % 4 ≤ 1 ∧ 2 ≤ (se8 serialRegs).header.prgBanks16 ∧
      (se1 serialRegs).header.prgBanks16 = 1 ∧ (0x08#5).toNat / 4 % 4 = 2 ∧ (0x0C#5).toNat / 4 % 4 = 3 ∧
      0x8000 ≤ (0x8000#16).toNat ∧ (0xBFFF#16).toNat < 0xC000 ∧ 0xC000 ≤ (0xC000#16).toNat :=
  ⟨rfl, by decide, by decide, rfl, by decide, by decide, by decide, by decide, by decide⟩

theorem witness_SerialReadsThroughItsChrLayout :
    (se8 serialRegs).regs = .serial serialRegs ∧ (0x1FFF#16).toNat ≤ 0x1FFF ∧
      serialRegs.control.getLsbD 4 = false ∧ (0x10#5).getLsbD 4 = true ∧ (0x0FFF#16).toNat < 0x1000 ∧
      0x1000 ≤ (0x1000#16).toNat := ⟨rfl, by decide, by decide, by decide, by decide, by decide⟩

theorem witness_SerialHighBitWriteAbandonsTheSequence :
    (se8 serialRegs).regs = .serial serialRegs ∧ (se8 serialRegs).params.serialResetForcesPrgMode3 = false ∧
      ({ se8 serialRegs with params := { a12Filter := 1, serialResetForcesPrgMode3 := true } } :
        State).params.serialResetForcesPrgMode3 = true := ⟨rfl, rfl, rfl⟩

theorem witness_SerialBitsOneToFourShift :
    (se8 { serialRegs with writeCount := 3 }).regs = .serial { serialRegs with writeCount := 3 } ∧ 3 < 4 :=
  ⟨rfl, by decide⟩

theorem witness_SerialFifthBitCommits :
    (se8 { serialRegs with writeCount := 4 }).regs = .serial { serialRegs with writeCount := 4 } ∧
      Addr.between 0x8000#16 0x8000 0x9FFF = true ∧ Addr.between 0x9FFF#16 0x8000 0x9FFF = true ∧
      Addr.between 0xA000#16 0xA000 0xBFFF = true ∧ Addr.between 0xBFFF#16 0xA000 0xBFFF = true ∧
      Addr.between 0xC000#16 0xC000 0xDFFF = true ∧ Addr.between 0xDFFF#16 0xC000 0xDFFF = true ∧
      Addr.between 0xE000#16 0xE000 0xFFFF = true ∧ Addr.between 0xFFFF#16 0xE000 0xFFFF = true :=
  ⟨rfl, by decide, by decide, by decide, by decide, by decide, by decide, by decide, by decide⟩

theorem witness_FiveSerialWritesLoadARegister :
    (se8 serialRegs).regs = .serial serialRegs ∧ serialRegs.writeCount = 0 ∧ 0x8000 ≤ (0x8000#16).toNat :=
  ⟨rfl, rfl, by decide⟩

theorem witness_ResetThenLoadDropsAnAbandonedSequence :
    (se8 { serialRegs with shiftRegister := 0x1C#5, writeCount := 4 }).regs =
        .serial { serialRegs with shiftRegister := 0x1C#5, writeCount := 4 } ∧
      (se8 serialRegs).params.serialResetForcesPrgMode3 = false ∧ 0x8000 ≤ (0xFFFF#16).toNat ∧
      0x8000 ≤ (0x8000#16).toNat := ⟨rfl, rfl, by decide, by decide⟩

/-- A tick in the middle of a sequence. -/
theorem witness_OnlySerialWritesTouchTheSequence :
    exec (.tick true) (se8 { serialRegs with writeCount := 3 }) = .next (se8 { serialRegs with writeCount := 3 }) ∧
      (Instr.tick true).rowVariant ≠ some .serial ∧ Instr.tick true ≠ .reset ∧ ∀ b, Instr.tick true ≠ .restore b :=
  ⟨rfl, by decide, by decide, fun _ => by simp⟩

theorem witness_ScanReadsThroughItsPrgLayout :
    (sc4 scanRegs).regs = .scan scanRegs ∧ 1 ≤ (sc4 scanRegs).header.prgBanks16 ∧ 0x8000 ≤ (0x8000#16).toNat ∧
      (0x9FFF#16).toNat < 0xA000 ∧ 0xA000 ≤ (0xA000#16).toNat ∧ (0xBFFF#16).toNat < 0xC000 ∧
      0xC000 ≤ (0xC000#16).toNat ∧ (0xDFFF#16).toNat < 0xE000 ∧ 0xE000 ≤ (0xE000#16).toNat :=
  ⟨rfl, by decide, by decide, by decide, by decide, by decide, by decide, by decide, by decide⟩

theorem witness_ScanReadsThroughItsChrLayout :
    (sc4 scanRegs).regs = .scan scanRegs ∧ (0x1FFF#16).toNat ≤ 0x1FFF ∧
      (sc4 scanRegs).params.scanSeparateChrModeBit = false ∧ scanRegs.bankSelect.getLsbD 6 = false ∧
      (0x40#8).getLsbD 6 = true ∧ (0x80#8).getLsbD 7 = true ∧ (0x0FFF#16).toNat < 0x1000 ∧
      0x1000 ≤ (0x1000#16).toNat := ⟨rfl, by decide, rfl, by decide, by decide, by decide, by decide, by decide⟩

/-- For ScanBankWritesSetTheirRegister, ScanMirroringAndProtectWritesSetTheirRegister, ScanIrqWritesSetTheirRegister and
ScanIrqDisableClearsEnableAndPending, whose one hypothesis this is. -/
theorem witness_ScanWritesSetTheirRegister : (sc4 scanRegs).regs = .scan scanRegs := rfl

theorem witness_IrqSetupWritesCommute :
    (sc4 scanRegs).regs = .scan scanRegs ∧
      [scriptCW 0xE001#16 0#8, scriptCW 0xC000#16 3#8, scriptCW 0xC001#16 0#8].Perm
        [scriptCW 0xC000#16 3#8, scriptCW 0xC001#16 0#8, scriptCW 0xE001#16 0#8] := ⟨rfl, by decide⟩

theorem witness_TickDoesNothingWithoutACounter :
    (∀ r, sw4.regs ≠ .scan r) ∧ ∀ r, (se8 serialRegs).regs ≠ .scan r := by
  constructor <;> intro r h <;> cases h

/-- Filter length 1: a run of 0 is filtered, a run of 1 clocks; counter 0, a requested reload, and counter 1. -/
theorem witness_ScanTickFiltersAndClocks :
    (sc4 scanRegs).regs = .scan scanRegs ∧ scanRegs.a12LowRun < (sc4 scanRegs).params.a12Filter ∧
      (sc4 scanRegs).params.a12Filter ≤ ({ scanRegs with a12LowRun := 1 } : ScanRegs).a12LowRun ∧
      scanRegs.irqCounter = 0#8 ∧ ({ scanRegs with irqReload := true } : ScanRegs).irqReload = true ∧
      ({ scanRegs with irqCounter := 1#8 } : ScanRegs).irqCounter ≠ 0#8 ∧ scanRegs.irqReload = false :=
  ⟨rfl, by decide, by decide, rfl, rfl, by decide, rfl⟩

theorem witness_A12ClkIsOneCounterClock : (sc4 scanRegs).regs = .scan scanRegs := rfl

theorem witness_ProgrammedCounterRaisesAtTheLthClock :
    (sc4 scanRegs).regs = .scan scanRegs ∧ scanRegs.irqPending = false ∧ 1 ≤ (1#8).toNat ∧ 255 ≤ (255#8).toNat :=
  ⟨rfl, rfl, by decide, by decide⟩

theorem witness_ZeroLatchNeverRaisesByDefault :
    (sc4 { scanRegs with irqEnable := true }).regs = .scan { scanRegs with irqEnable := true } ∧
      (sc4 scanRegs).params.scanIrqOnReloadZero = false ∧ scanRegs.irqLatch = 0#8 ∧ scanRegs.irqCounter = 0#8 ∧
      scanRegs.irqPending = false := ⟨rfl, rfl, rfl, rfl, rfl⟩

theorem witness_IrqQueryReturnsTheLevel :
    (sc4 { scanRegs with irqPending := true }).regs = .scan { scanRegs with irqPending := true } ∧
      ∀ r, sw4.regs ≠ .scan r := ⟨rfl, fun r h => by cases h⟩

theorem witness_IrqAckClearsPendingOnly :
    (sc4 { scanRegs with irqPending := true }).regs = .scan { scanRegs with irqPending := true } ∧
      ∀ r, (se8 serialRegs).regs ≠ .scan r := ⟨rfl, fun r h => by cases h⟩

/-- The clock of vector E6 that raises. -/
theorem witness_IrqRisesOnlyAtACounterClock :
    let r : ScanRegs := { scanRegs with irqCounter := 1#8, irqEnable := true, a12LowRun := 1 }
    exec (.tick true) (sc4 r) =
        .next (sc4 { r with irqCounter := 0#8, irqPending := true, a12LowRun := 0 }) ∧
      irqLevel (sc4 r) = false ∧
      irqLevel (sc4 { r with irqCounter := 0#8, irqPending := true, a12LowRun := 0 }) = true := ⟨rfl, rfl, rfl⟩

/-- The acknowledge, and a RESTORE of a blob whose pending bit is 0. -/
theorem witness_PendingIrqStaysUntilCleared :
    exec .irqAck (sc4 { scanRegs with irqPending := true }) = .next (sc4 scanRegs) ∧
      exec (.restore tableBlob) (sc4 { scanRegs with irqPending := true }) = .next (sc4 scanRegs) ∧
      irqLevel (sc4 { scanRegs with irqPending := true }) = true ∧ irqLevel (sc4 scanRegs) = false :=
  ⟨rfl, rfl, rfl, rfl⟩

theorem witness_CounterChangesOnlyAtTicksAndReset :
    exec (.cwScanIrqReload 0xC001#16 0#8) (sc4 scanRegs) = .next (sc4 { scanRegs with irqReload := true }) ∧
      exec (.tick false) (sc4 scanRegs) = .next (sc4 { scanRegs with a12LowRun := 1 }) := ⟨rfl, rfl⟩

/-- SWAP by header, SERIAL by each code, SCAN with and without a FourScreen header. -/
theorem witness_MirroringQueryReturnsTheCode :
    sw2r.regs = .swap { prgBank := 0#8 } ∧ sw2r.header.mirroringFlag = .horizontal ∧
      (se8 serialRegs).regs = .serial serialRegs ∧
      (serialRegs.control.toNat % 4, 2) ∈ [(0, 2), (1, 3), (2, 1), (3, 0)] ∧
      ((0x1F#5).toNat % 4, 0) ∈ [(0, 2), (1, 3), (2, 1), (3, 0)] ∧
      sc4f.regs = .scan scanRegs ∧ sc4f.header.mirroringFlag = .fourScreen ∧
      (sc4 scanRegs).header.mirroringFlag ≠ .fourScreen ∧ (scanRegs.mirroring, 1) ∈ [(0#1, 1), (1#1, 0)] :=
  ⟨rfl, rfl, rfl, by decide, by decide, rfl, rfl, by decide, by decide⟩

/-- A header of each failing check, with images of the lengths the earlier checks ask for. -/
theorem witness_CreateRejectsInOrder :
    3 ∉ [1, 2, 4] ∧ 2 ∈ [1, 2, 4] ∧
      (⟨0, 0, false, .vertical⟩ : Header).prgBanks16 = 0 ∧ (⟨1, 0, false, .vertical⟩ : Header).prgBanks16 = 1 ∧
      ([] : List Byte).length ≠ (⟨1, 0, false, .vertical⟩ : Header).prgBanks16 * 16384 ∧
      (List.replicate 16384 0#8).length = (⟨1, 1, false, .vertical⟩ : Header).prgBanks16 * 16384 ∧
      ([] : List Byte).length ≠ (⟨1, 1, false, .vertical⟩ : Header).chrBanks8 * 8192 := by
  refine ⟨by decide, by decide, rfl, rfl, by decide, ?_, by decide⟩
  simp only [List.length_replicate, Nat.one_mul]

/-- A SERIAL cartridge of one 16K bank with CHR-RAM. -/
theorem witness_CreateMakesTheResetInstance :
    paramsWf { a12Filter := 255 } = true ∧
      (1, Variant.serial) ∈ [(1, Variant.serial), (2, Variant.swap), (4, Variant.scan)] ∧
      1 ≤ (⟨1, 0, true, .vertical⟩ : Header).prgBanks16 ∧ (1 = 2 → 2 ≤ (⟨1, 0, true, .vertical⟩ : Header).prgBanks16) ∧
      (List.replicate 16384 0#8).length = (⟨1, 0, true, .vertical⟩ : Header).prgBanks16 * 16384 ∧
      ([] : List Byte).length = (⟨1, 0, true, .vertical⟩ : Header).chrBanks8 * 8192 ∧
      (⟨1, 0, true, .vertical⟩ : Header).chrBanks8 = 0 := by
  refine ⟨by decide, by decide, by decide, by decide, ?_, by decide, rfl⟩
  simp only [List.length_replicate, Nat.one_mul]

/-- For ResetTakesEveryRegisterToItsResetValue and SaveReturnsTheBlob, one clause per variant. -/
theorem witness_ResetAndSave :
    sw4.regs = .swap { prgBank := 0x00#8 } ∧ (se8 serialRegs).regs = .serial serialRegs ∧
      (sc4 scanRegs).regs = .scan scanRegs := ⟨rfl, rfl, rfl⟩

/-- Good blobs at the ends of the field ranges, and blobs that fail by tag, length or range. -/
theorem witness_RestoreLoadsOrRefusesSwapAndSerial :
    sw4.regs = .swap { prgBank := 0x00#8 } ∧ (∀ x : Byte, ([0x01#8, 0x05#8] : Blob) ≠ [0x02#8, x]) ∧
      (se8 serialRegs).regs = .serial serialRegs ∧ (31#8).toNat < 32 ∧ (4#8).toNat ≤ 4 ∧
      ∀ sh wc c p c0 c1 : Byte, ([0x01#8, 0#8, 5#8, 0#8, 0#8, 0#8, 0#8] : Blob) = [0x01#8, sh, wc, c, p, c0, c1] →
        ¬ (sh.toNat < 32 ∧ wc.toNat ≤ 4 ∧ c.toNat < 32 ∧ p.toNat < 32 ∧ c0.toNat < 32 ∧ c1.toNat < 32) := by
  refine ⟨rfl, fun x => by simp, rfl, by decide, by decide, ?_⟩
  intro sh wc c p c0 c1 h
  simp only [List.cons.injEq] at h
  obtain ⟨-, rfl, rfl, -⟩ := h
  simp

theorem witness_RestoreLoadsOrRefusesScan :
    (sc4 scanRegs).regs = .scan scanRegs ∧
      tableBlob = [0x04#8, 0x00#8] ++ scanRegs.bankRegisters.toList ++ [0#8, 0x80#8, 0#8, 0#8, 0#8, 0#8] ∧
      (1#8).toNat ≤ 1 ∧ (7#8).toNat < 8 ∧ (1#8).toNat ≤ (sc4 scanRegs).params.a12Filter ∧
      ∀ (bs m pr la co fl lr : Byte) (banks : Vector Byte 8),
        ([0x04#8] : Blob) = [0x04#8, bs] ++ banks.toList ++ [m, pr, la, co, fl, lr] →
        ¬ (m.toNat ≤ 1 ∧ fl.toNat < 8 ∧ lr.toNat ≤ (sc4 scanRegs).params.a12Filter) := by
  refine ⟨rfl, rfl, by decide, by decide, by decide, ?_⟩
  intro bs m pr la co fl lr banks h
  simp at h

theorem witness_SnapshotRoundTrip :
    sw4.wf = true ∧ exec .save sw4 = .next { sw4 with result := .blob [0x02#8, 0x00#8] } ∧
      sw2r.variant = sw4.variant ∧ sw2r.params = sw4.params := ⟨by decide, rfl, rfl, rfl⟩

theorem witness_EveryStepKeepsTheInstanceWellFormed :
    ({ sw4 with pending := [word 0x10800005#32] } : State).wf = true ∧
      step { sw4 with pending := [word 0x10800005#32] } =
        .next { sw4 with regs := .swap { prgBank := 0x05#8 }, pos := 1 } := ⟨by decide, rfl⟩

theorem witness_NoTransactionChangesTheCartridge :
    exec (.cwPrgRam 0x6000#16 0xAB#8) sw4 = .next { sw4 with prgRam := [(0, 0xAB#8)] } ∧
      sw4.header.chrBanks8 ≠ 0 := ⟨rfl, by decide⟩

theorem witness_ReadsAndQueriesHaveNoSideEffect :
    exec .irqPending sw4 = .next { sw4 with result := .flag false } ∧ Instr.irqPending.rowVariant = none ∧
      (∀ a v, Instr.irqPending ≠ .cwPrgRam a v) ∧ (∀ a v, Instr.irqPending ≠ .pwChr a v) ∧
      (∀ l, Instr.irqPending ≠ .tick l) ∧ Instr.irqPending ≠ .reset ∧ Instr.irqPending ≠ .irqAck ∧
      ∀ b, Instr.irqPending ≠ .restore b :=
  ⟨rfl, rfl, fun _ _ => by simp, fun _ _ => by simp, fun _ => by simp, by simp, by simp, fun _ => by simp⟩

end Sys2Proof.Tests
end

section
/-! PROOFS. Every legal word is the word of a row that runs in the state's variant, and every such row goes on. -/

namespace Sys2Proof

/-! ### What the decoder answers, by the row that hits (R84) -/

/-- The instruction of one of the two REFUSED rows (R120). -/
def Instr.isUnrouted : Instr → Bool
  | .refusedCrUnrouted _ => true
  | .refusedCwUnrouted _ _ => true
  | _ => false

theorem Row.hits_iff (r : Row) (v : Variant) (w : Word) :
    r.hits v w = true ↔ rowFits r.variant v = true ∧ w &&& r.mask = r.pattern := by
  rw [Row.hits, Bool.and_eq_true, decide_eq_true_eq]

/-- A decoded instruction is the one that some hitting row builds. -/
theorem exists_row_of_decode {v : Variant} {q : Request} {i : Instr} (h : decode v q = .ok i) :
    ∃ r ∈ opcodeTable, r.hits v q.word = true ∧ i = r.build q := by
  unfold decode at h
  split at h
  · next r hr =>
    cases h
    exact ⟨r, List.mem_of_find?_eq_some hr, List.find?_some (p := fun r : Row => r.hits v q.word) hr, rfl⟩
  · cases h

/-- A word that some row hits decodes. -/
theorem exists_decode_of_row {v : Variant} {q : Request} (h : ∃ r ∈ opcodeTable, r.hits v q.word = true) :
    ∃ i, decode v q = .ok i := by
  obtain ⟨r, hr⟩ := Option.isSome_iff_exists.mp (List.find?_isSome.mpr h)
  exact ⟨r.build q, by rw [decode, hr]⟩

/-! ### The rows of the opcode table -/

/-- A row builds an instruction of its own variant. -/
theorem rowVariant_build (q : Request) : ∀ r ∈ opcodeTable, (r.build q).rowVariant = r.variant := by
  simp [opcodeTable, busRows, hostRows, swapRows, serialRows, scanRows, Instr.rowVariant]

/-- The rows that build a REFUSED instruction hit no address outside 0x4000..0x401F. -/
theorem unrouted_addr {v : Variant} (q : Request) : ∀ r ∈ opcodeTable, r.hits v q.word = true →
    (r.build q).isUnrouted = true → 0x4000 ≤ (addrOf q.word).toNat ∧ (addrOf q.word).toNat ≤ 0x401F := by
  simp +contextual [opcodeTable, busRows, hostRows, swapRows, serialRows, scanRows, Instr.isUnrouted, Row.hits_iff,
    hits_refusedCrUnrouted, hits_refusedCwUnrouted]

/-- The row that builds a RESTORE hits one word only, and hands on the blob beside it (R91). -/
theorem restore_word {v : Variant} (q : Request) (b : Blob) : ∀ r ∈ opcodeTable, r.hits v q.word = true →
    r.build q = .restore b → q.word = 0xA0000000#32 ∧ q.blob = b := by
  have and_allOnes (w : Word) : w &&& 0xffffffff#32 = w := BitVec.and_allOnes
  simp +contextual [opcodeTable, busRows, hostRows, swapRows, serialRows, scanRows, Row.hits_iff, and_allOnes]

/-! ### A legal word is hit by a row -/

section legal
variable {w : Word} {v : Variant}

/-- The legal words, in numbers. -/
theorem legalWord_toNat (h : Claims.legalWord w) : (zOf w).toNat = 0 ∧
    ((kindOf w).toNat = 0 ∧ 0x4020 ≤ (addrOf w).toNat ∧ (dataOf w).toNat = 0 ∨
      (kindOf w).toNat = 1 ∧ 0x4020 ≤ (addrOf w).toNat ∨
      (kindOf w).toNat = 2 ∧ (addrOf w).toNat < 0x2000 ∧ (dataOf w).toNat = 0 ∨
      (kindOf w).toNat = 3 ∧ (addrOf w).toNat < 0x2000 ∨
      (kindOf w).toNat = 4 ∧ (addrOf w).toNat = 0 ∧ (dataOf w).toNat ≤ 1 ∨
      5 ≤ (kindOf w).toNat ∧ (kindOf w).toNat ≤ 10 ∧ (addrOf w).toNat = 0 ∧ (dataOf w).toNat = 0) := by
  simpa [Claims.legalWord, BitVec.toNat_eq] using h

/-- No legal word carries an address of the REFUSED rows. -/
theorem legalWord_addr (h : Claims.legalWord w) : ¬ (0x4000 ≤ (addrOf w).toNat ∧ (addrOf w).toNat ≤ 0x401F) := by
  have := legalWord_toNat h
  omega

/-- The bus rows cover every legal bus access but the register writes (R110 to R119). -/
theorem busRows_hit (h : Claims.legalWord w) (hk : (kindOf w).toNat ≤ 3)
    (hw : (kindOf w).toNat = 1 → (addrOf w).toNat < 0x8000) : ∃ r ∈ busRows, r.hits v w = true := by
  simp only [busRows, List.exists_mem_cons_iff, Row.hits_iff, rowFits, true_and, hits_refusedCrUnrouted,
    hits_refusedCwUnrouted, hits_crOpen, hits_cwOpen, hits_crPrgRam, hits_cwPrgRam, hits_crPrgRom, hits_prChr,
    hits_pwChr]
  obtain ⟨hz, ⟨hkind, ha, hd⟩ | ⟨hkind, ha⟩ | ⟨hkind, ha, hd⟩ | ⟨hkind, ha⟩ | ⟨hkind, -⟩ | ⟨hkind, -⟩⟩ :=
    legalWord_toNat h
  · simp [hkind, hz, hd]
    omega
  · simp [hkind, hz]
    omega
  · simp [hkind, hz, hd]
    omega
  · simp [hkind, hz]
    omega
  · omega
  · omega

/-- The rows of the host calls cover every legal host call (R82). -/
theorem hostRows_hit (h : Claims.legalWord w) (hk : 4 ≤ (kindOf w).toNat) : ∃ r ∈ hostRows, r.hits v w = true := by
  simp only [hostRows, List.exists_mem_cons_iff, Row.hits_iff, rowFits, true_and, hits_tick, hits_reset,
    hits_irqPending, hits_irqAck, hits_getMirroring, hits_save, hits_restore]
  obtain ⟨hz, hcall⟩ := legalWord_toNat h
  have ha : (addrOf w).toNat = 0 := by omega
  have hd : (kindOf w).toNat = 4 ∧ (dataOf w).toNat ≤ 1 ∨ (kindOf w).toNat ≤ 10 ∧ (dataOf w).toNat = 0 := by omega
  simp only [hz, ha, true_and]
  omega

section registerWrite
variable (hk : (kindOf w).toNat = 1) (hz : (zOf w).toNat = 0) (ha : 0x8000 ≤ (addrOf w).toNat)
include hk hz ha

theorem swapRows_hit : ∃ r ∈ swapRows, r.hits .swap w = true := by
  simp only [swapRows, List.exists_mem_cons_iff, Row.hits_iff, rowFits, decide_true, true_and, hits_cwSwapBank]
  omega

theorem serialRows_hit : ∃ r ∈ serialRows, r.hits .serial w = true := by
  simp only [serialRows, List.exists_mem_cons_iff, Row.hits_iff, rowFits, decide_true, true_and, hits_cwSerialReset,
    hits_cwSerialCtrl, hits_cwSerialChr0, hits_cwSerialChr1, hits_cwSerialPrg]
  omega

theorem scanRows_hit : ∃ r ∈ scanRows, r.hits .scan w = true := by
  simp only [scanRows, List.exists_mem_cons_iff, Row.hits_iff, rowFits, decide_true, true_and, hits_cwScanBankSelect,
    hits_cwScanBankData, hits_cwScanMirroring, hits_cwScanPrgRamProtect, hits_cwScanIrqLatch, hits_cwScanIrqReload,
    hits_cwScanIrqDisable, hits_cwScanIrqEnable]
  omega

/-- Every variant has a row for every write at 0x8000 and above (R85). -/
theorem registerRow_hits : ∃ r ∈ swapRows ++ serialRows ++ scanRows, r.hits v w = true := by
  cases v with
  | swap => exact (swapRows_hit hk hz ha).imp fun r ⟨hr, hh⟩ => ⟨by simp [hr], hh⟩
  | serial => exact (serialRows_hit hk hz ha).imp fun r ⟨hr, hh⟩ => ⟨by simp [hr], hh⟩
  | scan => exact (scanRows_hit hk hz ha).imp fun r ⟨hr, hh⟩ => ⟨by simp [hr], hh⟩

end registerWrite

/-- Every legal word is hit in every variant: by a host-call row, by a register row of the variant, or by a bus row
that all variants share (R82, R84). -/
theorem opcodeTable_hits (h : Claims.legalWord w) : ∃ r ∈ opcodeTable, r.hits v w = true := by
  by_cases hhost : 4 ≤ (kindOf w).toNat
  · exact (hostRows_hit h hhost).imp fun r ⟨hr, hh⟩ => ⟨by simp [opcodeTable, hr], hh⟩
  by_cases hreg : (kindOf w).toNat = 1 ∧ 0x8000 ≤ (addrOf w).toNat
  · obtain ⟨hz, -⟩ := legalWord_toNat h
    obtain ⟨hk, ha⟩ := hreg
    obtain ⟨r, hr, hh⟩ := registerRow_hits (v := v) hk hz ha
    exact ⟨r, by simp only [opcodeTable, List.mem_append] at hr ⊢; tauto, hh⟩
  · exact (busRows_hit h (by omega) (by omega)).imp fun r ⟨hr, hh⟩ => ⟨by simp [opcodeTable, hr], hh⟩

end legal

/-- A legal word decodes to an instruction of the state's variant, never to one of the REFUSED rows, and to a
RESTORE only from its one word, with the blob beside it. -/
theorem decode_legalWord (v : Variant) {q : Request} (h : Claims.legalWord q.word) :
    ∃ i, decode v q = .ok i ∧ rowFits i.rowVariant v = true ∧ i.isUnrouted = false ∧
      ∀ b, i = .restore b → q.word = 0xA0000000#32 ∧ q.blob = b := by
  obtain ⟨i, hd⟩ := exists_decode_of_row (opcodeTable_hits (v := v) h)
  obtain ⟨r, hr, hh, rfl⟩ := exists_row_of_decode hd
  refine ⟨_, hd, ?_, ?_, fun b hb => restore_word q b r hr hh hb⟩
  · rw [rowVariant_build q r hr]
    exact ((r.hits_iff v q.word).mp hh).1
  · rw [Bool.eq_false_iff]
    exact fun hu => legalWord_addr h (unrouted_addr q r hr hh hu)

end Sys2Proof

namespace Sys2Proof.Machine

/-! ### A register write goes on in its own variant -/

theorem updateSwap_goesOn {s : State} (hv : s.variant = .swap) (f : SwapRegs → SwapRegs) :
    ∃ t, updateSwap s f = .next t := by
  unfold State.variant at hv
  cases hr : s.regs with
  | swap r => exact ⟨_, updateSwap_of_regs f hr⟩
  | serial r => simp [hr] at hv
  | scan r => simp [hr] at hv

theorem updateSerial_goesOn {s : State} (hv : s.variant = .serial) (f : SerialRegs → SerialRegs) :
    ∃ t, updateSerial s f = .next t := by
  unfold State.variant at hv
  cases hr : s.regs with
  | swap r => simp [hr] at hv
  | serial r => exact ⟨_, updateSerial_of_regs f hr⟩
  | scan r => simp [hr] at hv

theorem updateScan_goesOn {s : State} (hv : s.variant = .scan) (f : ScanRegs → ScanRegs) :
    ∃ t, updateScan s f = .next t := by
  unfold State.variant at hv
  cases hr : s.regs with
  | swap r => simp [hr] at hv
  | serial r => simp [hr] at hv
  | scan r => exact ⟨_, updateScan_of_regs f hr⟩

/-! ### Every meaning but the REFUSED rows' goes on -/

/-- An instruction of the state's variant goes on, unless it is a REFUSED row's or restores a blob that is not
well formed. -/
theorem exec_goesOn {i : Instr} {s : State} (hv : rowFits i.rowVariant s.variant = true)
    (hu : i.isUnrouted = false) (hb : ∀ b, i = .restore b → blobWellFormed s.params s.variant b = true) :
    ∃ t, exec i s = .next t := by
  cases i with
  | refusedCrUnrouted | refusedCwUnrouted => cases hu
  | crOpen | cwOpen | crPrgRom | prChr | pwChr | tick | reset | irqPending | irqAck | getMirroring | save =>
    exact ⟨_, rfl⟩
  | crPrgRam a =>
    simp only [exec, execCrPrgRam]
    split <;> exact ⟨_, rfl⟩
  | cwPrgRam a v =>
    simp only [exec, execCwPrgRam]
    split <;> exact ⟨_, rfl⟩
  | restore b => exact ⟨_, if_pos (hb b rfl)⟩
  | cwSwapBank => exact updateSwap_goesOn (of_decide_eq_true hv).symm _
  | cwSerialReset | cwSerialCtrl | cwSerialChr0 | cwSerialChr1 | cwSerialPrg =>
    exact updateSerial_goesOn (of_decide_eq_true hv).symm _
  | cwScanBankSelect | cwScanBankData | cwScanMirroring | cwScanPrgRamProtect | cwScanIrqLatch | cwScanIrqReload
  | cwScanIrqDisable | cwScanIrqEnable => exact updateScan_goesOn (of_decide_eq_true hv).symm _

/-- No transaction touches the host's script: what is still to come and the position (R22). -/
theorem exec_keeps_script {i : Instr} {s t : State} (h : exec i s = .next t) :
    t.pending = s.pending ∧ t.pos = s.pos := by
  cases exec_effect h with
  | result x h => exact h ▸ ⟨rfl, rfl⟩
  | draw h => exact h ▸ ⟨rfl, rfl⟩
  | store w a v hi h =>
    obtain ⟨-, -, -, hpending, hpos, -⟩ := regionWrite_fields s w.region (offsetOf s w a.toNat) v
    exact h ▸ ⟨hpending, hpos⟩
  | registers g hv h => exact h ▸ ⟨rfl, rfl⟩

/-! ### The step -/

/-- No step faults (R271). -/
theorem step_ne_fault (s : State) (f : Fault) : step s ≠ .fault f := by
  unfold step
  split
  · simp
  · split
    · simp
    · exact exec_ne_fault _ _ f

/-- Settles O6: a legal word decodes to an instruction of the state's variant, which goes on from the issued
state and leaves the script as it stands there. -/
theorem legalTransactionsRunWithoutError : Obligations.LegalTransactionsRunWithoutError := by
  refine ⟨step_ne_fault, fun s q rest hp hlegal hblob => ?_⟩
  obtain ⟨i, hd, hv, hu, hr⟩ := decode_legalWord s.variant hlegal
  have hrestore : ∀ b, i = .restore b → blobWellFormed s.params s.variant b = true := by
    intro b hb
    obtain ⟨hw, rfl⟩ := hr b hb
    exact hblob hw
  obtain ⟨t, ht⟩ := exec_goesOn (s := issued s rest) hv hu hrestore
  obtain ⟨hpending, hpos⟩ := exec_keeps_script ht
  exact ⟨t, by rw [step_decoded hp hd, ht], hpending, hpos⟩

end Sys2Proof.Machine
end

section
/-! PROOFS. A word that some row hits is a legal word or an unrouted CPU access, which the REFUSED rows stand before,
so the step refuses every word that is not legal for R86's reason. -/

namespace Sys2Proof

/-- The words of the two REFUSED rows, and of the open-bus rows behind them: a CPU access at 0x4000..0x401F (R120). -/
def unroutedWord (w : Word) : Prop :=
  (zOf w).toNat = 0 ∧ (kindOf w).toNat ≤ 1 ∧ 0x4000 ≤ (addrOf w).toNat ∧ (addrOf w).toNat ≤ 0x401F

/-! ### The words that match a row, whatever the variant -/

section matching
variable {w : Word}

theorem legal_or_unrouted_of_busRows (h : ∃ r ∈ busRows, w &&& r.mask = r.pattern) :
    Claims.legalWord w ∨ unroutedWord w := by
  simp only [busRows, List.exists_mem_cons_iff, hits_refusedCrUnrouted, hits_refusedCwUnrouted, hits_crOpen,
    hits_cwOpen, hits_crPrgRam, hits_cwPrgRam, hits_crPrgRom, hits_prChr, hits_pwChr, List.not_mem_nil, false_and,
    exists_false, or_false] at h
  simp only [Claims.legalWord, unroutedWord, BitVec.toNat_eq, BitVec.toNat_ofNat, Nat.zero_mod]
  obtain h | h | h | h | h | h | h | h | h := h
  all_goals omega

theorem legalWord_of_hostRows (h : ∃ r ∈ hostRows, w &&& r.mask = r.pattern) : Claims.legalWord w := by
  simp only [hostRows, List.exists_mem_cons_iff, hits_tick, hits_reset, hits_irqPending, hits_irqAck,
    hits_getMirroring, hits_save, hits_restore, List.not_mem_nil, false_and, exists_false, or_false] at h
  simp only [Claims.legalWord, BitVec.toNat_eq, BitVec.toNat_ofNat, Nat.zero_mod]
  obtain h | h | h | h | h | h | h := h
  all_goals omega

/-- Over all variants, the register rows match writes at 0x8000 and above only (R85). -/
theorem legalWord_of_registerRows (h : ∃ r ∈ swapRows ++ serialRows ++ scanRows, w &&& r.mask = r.pattern) :
    Claims.legalWord w := by
  simp only [swapRows, serialRows, scanRows, List.cons_append, List.nil_append, List.exists_mem_cons_iff,
    hits_cwSwapBank, hits_cwSerialReset, hits_cwSerialCtrl, hits_cwSerialChr0, hits_cwSerialChr1, hits_cwSerialPrg,
    hits_cwScanBankSelect, hits_cwScanBankData, hits_cwScanMirroring, hits_cwScanPrgRamProtect, hits_cwScanIrqLatch,
    hits_cwScanIrqReload, hits_cwScanIrqDisable, hits_cwScanIrqEnable, List.not_mem_nil, false_and,
    exists_false, or_false] at h
  have hw : (kindOf w).toNat = 1 ∧ (zOf w).toNat = 0 ∧ 0x8000 ≤ (addrOf w).toNat := by omega
  obtain ⟨hk, hz, ha⟩ := hw
  exact ⟨BitVec.eq_of_toNat_eq hz, .inr (.inl ⟨hk, by omega⟩)⟩

theorem legal_or_unrouted_of_opcodeTable {r : Row} (hr : r ∈ opcodeTable) (h : w &&& r.mask = r.pattern) :
    Claims.legalWord w ∨ unroutedWord w := by
  simp only [opcodeTable, List.append_assoc, List.mem_append] at hr
  obtain hr | hr | hr := hr
  · exact legal_or_unrouted_of_busRows ⟨r, hr, h⟩
  · exact .inl (legalWord_of_hostRows ⟨r, hr, h⟩)
  · exact .inl (legalWord_of_registerRows ⟨r, by simpa using hr, h⟩)

end matching

/-! ### What the decoder answers for a word that is not legal (R84, R86) -/

/-- The decoder's refusals are R86's. -/
theorem reason_of_decode {v : Variant} {q : Request} {e : WordRefusal} (h : decode v q = .error e) :
    e = refusalOf q.word := by
  unfold decode at h
  split at h
  · cases h
  · cases h
    rfl

/-- The REFUSED rows stand before the open-bus rows that match their words too, and every row asks a CR word for a
data field of 0. -/
theorem isUnrouted_of_decode {v : Variant} {q : Request} {i : Instr} (hw : unroutedWord q.word)
    (h : decode v q = .ok i) : i.isUnrouted = true := by
  obtain ⟨hz, hk, hlo, hhi⟩ := hw
  rw [decode_eq_ranges] at h
  obtain hk | hk : (kindOf q.word).toNat = 0 ∨ (kindOf q.word).toNat = 1 := by omega
  · by_cases hd : (dataOf q.word).toNat = 0
    · rw [if_pos ⟨hk, hz, hlo, hhi, hd⟩] at h
      cases h
      rfl
    · simp [hk, hd] at h
  · rw [if_neg (by omega), if_pos ⟨hk, hz, hlo, hhi⟩] at h
    cases h
    rfl

theorem refusalOf_unroutedWord {w : Word} (h : unroutedWord w) : refusalOf w = .unroutedCpuAddress := by
  obtain ⟨hz, hk, -, hhi⟩ := h
  rw [refusalOf, if_neg (by omega), if_neg (by bv_omega), if_pos (by omega)]

end Sys2Proof

namespace Sys2Proof.Machine

/-- The meanings of the two REFUSED rows stop for R120's reason. -/
theorem exec_isUnrouted {i : Instr} (h : i.isUnrouted = true) (s : State) :
    exec i s = .refused (.word .unroutedCpuAddress) := by
  unfold Instr.isUnrouted at h
  split at h
  · rfl
  · rfl
  · cases h

/-- Every word that is not legal is refused for the first of R86's reasons that holds, whether no row decodes it or a
REFUSED row does. -/
theorem step_of_not_legalWord {s : State} {q : Request} {rest : List Request} (hp : s.pending = q :: rest)
    (hlegal : ¬ Claims.legalWord q.word) : step s = .refused (.word (refusalOf q.word)) := by
  cases hd : decode s.variant q with
  | error e => simp only [step, hp, hd, reason_of_decode hd]
  | ok i =>
    obtain ⟨r, hr, hh, -⟩ := exists_row_of_decode hd
    have hw : unroutedWord q.word :=
      (legal_or_unrouted_of_opcodeTable hr ((r.hits_iff s.variant q.word).mp hh).2).resolve_left hlegal
    rw [step_decoded hp hd, exec_isUnrouted (isUnrouted_of_decode hw hd), refusalOf_unroutedWord hw]

/-- The word of RESTORE with a blob that is not well formed: the row runs, and refuses the blob (R252). -/
theorem step_restore_badBlob {s : State} {q : Request} {rest : List Request} (hp : s.pending = q :: rest)
    (hw : q.word = 0xA0000000#32) (hb : blobWellFormed s.params s.variant q.blob = false) :
    step s = .refused .badBlob := by
  have hd : decode s.variant q = .ok (.restore q.blob) := by
    rw [decode_eq_ranges, hw]
    rfl
  rw [step_decoded hp hd]
  exact if_neg (Bool.eq_false_iff.mp hb)

/-- Settles O5: in each clause the word is not legal, and the clause's reason is the first of R86's that holds. -/
theorem illegalTransactionsAreRefusedByReason : Obligations.IllegalTransactionsAreRefusedByReason := by
  intro s q rest hp
  have refusedFor {reason : WordRefusal} (hlegal : ¬ Claims.legalWord q.word) (hreason : refusalOf q.word = reason) :
      step s = .refused (.word reason) := hreason ▸ step_of_not_legalWord hp hlegal
  refine ⟨fun hk => ?_, fun hk hz => ?_, fun hk hz ha => ?_, fun hk hz ha => ?_, fun hz hfield => ?_,
    step_restore_badBlob hp⟩
  · refine refusedFor (fun hl => ?_) (by simp [refusalOf, hk])
    have := legalWord_toNat hl
    omega
  · refine refusedFor (fun ⟨hzero, _⟩ => hz hzero) ?_
    rw [refusalOf, if_neg (by omega), if_pos hz]
  · refine refusedFor (fun hl => ?_) ?_
    · have := legalWord_toNat hl
      omega
    · rw [refusalOf, if_neg (by omega), if_neg (not_not.mpr hz), if_pos ⟨hk, ha⟩]
  · refine refusedFor (fun hl => ?_) ?_
    · have := legalWord_toNat hl
      omega
    · rw [refusalOf, if_neg (by omega), if_neg (not_not.mpr hz), if_neg (by omega), if_pos ⟨hk, ha⟩]
  · refine refusedFor (fun hl => ?_) ?_
    · have := legalWord_toNat hl
      bv_omega
    · rw [refusalOf, if_neg (by omega), if_neg (not_not.mpr hz), if_neg (by omega), if_neg (by omega)]

end Sys2Proof.Machine
end

section
/-! PROOFS. A CPU word below 0x4020 is neither legal nor, below 0x4000, matched by a REFUSED row, so no row decodes it;
at 0x4000..0x401F the REFUSED rows stand first (R84, R120). -/

namespace Sys2Proof

/-- No row decodes a word that is neither legal nor the word of a REFUSED row; R86 names the reason. -/
theorem decode_of_not_legalWord (v : Variant) {q : Request} (hlegal : ¬ Claims.legalWord q.word)
    (hrow : ¬ unroutedWord q.word) : decode v q = .error (refusalOf q.word) := by
  cases hd : decode v q with
  | error e => rw [reason_of_decode hd]
  | ok i =>
    obtain ⟨r, hr, hh, -⟩ := exists_row_of_decode hd
    exact absurd (legal_or_unrouted_of_opcodeTable hr ((r.hits_iff v q.word).mp hh).2) (not_or.mpr ⟨hlegal, hrow⟩)

/-- A CPU word below 0x4000 is decoded by no row (R120). -/
theorem decode_below_refusedRows (v : Variant) {q : Request} (hk : (kindOf q.word).toNat ≤ 1) (hz : zOf q.word = 0#4)
    (ha : (addrOf q.word).toNat < 0x4000) : decode v q = .error .unroutedCpuAddress := by
  have hlegal : ¬ Claims.legalWord q.word := fun hl => by
    have := legalWord_toNat hl
    omega
  have hrow : ¬ unroutedWord q.word := fun ⟨_, _, hlo, _⟩ => by omega
  rw [decode_of_not_legalWord v hlegal hrow, refusalOf, if_neg (by omega), if_neg (not_not.mpr hz),
    if_pos ⟨hk, by omega⟩]

/-- A CPU write at 0x4000..0x401F is the REFUSED row's; so is a read, where the data field is 0, and no row decodes it
where it is not (R84, R120). -/
theorem decode_unroutedWord (v : Variant) {q : Request} (hw : unroutedWord q.word) : decode v q =
    if (kindOf q.word).toNat = 1 then .ok (.refusedCwUnrouted (addrOf q.word) (dataOf q.word))
    else if dataOf q.word = 0#8 then .ok (.refusedCrUnrouted (addrOf q.word))
    else .error .unroutedCpuAddress := by
  have hreason := refusalOf_unroutedWord hw
  obtain ⟨hz, hk, hlo, hhi⟩ := hw
  rw [decode_eq_ranges]
  by_cases hwrite : (kindOf q.word).toNat = 1
  · rw [if_neg (by omega), if_pos ⟨hwrite, hz, hlo, hhi⟩, if_pos hwrite]
  have hread : (kindOf q.word).toNat = 0 := by omega
  by_cases hdata : dataOf q.word = 0#8
  · rw [if_pos ⟨hread, hz, hlo, hhi, by simp [hdata]⟩, if_neg hwrite, if_pos hdata]
  · have hd : (dataOf q.word).toNat ≠ 0 := fun h => hdata (BitVec.eq_of_toNat_eq h)
    simp [hread, hd, hdata, hreason]

end Sys2Proof

namespace Sys2Proof.Machine

/-- Settles O8: the two meanings stop on every path, below 0x4000 no row decodes the word, and at 0x4000..0x401F the
REFUSED rows stand first. -/
theorem unroutedRowsAreRefused : Obligations.UnroutedRowsAreRefused := by
  refine ⟨fun a v s => ⟨exec_isUnrouted rfl s, exec_isUnrouted rfl s⟩, fun v q hk hz => ⟨?_, fun hlo hhi => ?_⟩⟩
  · exact decode_below_refusedRows v hk hz
  · exact decode_unroutedWord v ⟨by simp [hz], hk, hlo, hhi⟩

end Sys2Proof.Machine
end

section
/-! PROOFS. The bank number of a window: adding the bank count to a negative number leaves its remainder as it was, so
`resolveBank` is the Euclidean remainder (R100, R107). -/

namespace Sys2Proof.Machine

/-- `resolveBank` is the Euclidean remainder (R100). -/
theorem resolveBank_eq_emod (b : Int) {n : Nat} (h : 1 ≤ n) : (resolveBank b n : Int) = b % n := by
  have hshift : (if b < 0 then (n : Int) + b else b) % n = b % n := by
    split
    · exact Int.add_emod_left _ _
    · rfl
  simp only [resolveBank, hshift]
  exact Int.toNat_of_nonneg (Int.emod_nonneg b (by omega))

theorem resolveBank_lt (b : Int) {n : Nat} (h : 1 ≤ n) : resolveBank b n < n := by
  have heq := resolveBank_eq_emod b h
  have hlt := Int.emod_lt_of_pos b (b := (n : Int)) (by omega)
  omega

/-- Settles O9: `resolveBank` is the Euclidean remainder, and −1 and −2 count from the last bank. -/
theorem resolvedBankIsAlwaysABank : Obligations.ResolvedBankIsAlwaysABank := by
  refine fun b n h => ⟨resolveBank_lt b h, resolveBank_eq_emod b h, resolveBank_last h, resolveBank_secondLast,
    fun c => ?_⟩
  rw [resolveBank_ofNat, resolveBank_ofNat, Nat.mod_mod]

end Sys2Proof.Machine
end

section
/-! PROOFS. The accesses through a window: which offset the PRG-RAM window gives, that the window covering an address
shows the region of its bus, and what a read or a write of that region is (R103, R104, R114 to R119). -/

namespace Sys2Proof.Machine

/-! ### PRG-RAM (R115, R119) -/

/-- The PRG-RAM window shows the region from its first byte on. -/
theorem offsetOf_prgRamWin (s : State) {a : Nat} (hlo : 0x6000 ≤ a) (hhi : a ≤ 0x7FFF) :
    offsetOf s prgRamWin a = a - 0x6000 := by
  have h := windowOffset_ofNat (base := 0x6000) (size := size8K) (len := prgRamSize) 0 (a := a) (by decide) (by decide)
    hlo (by simp only [size8K]; omega)
  rwa [Nat.zero_mod, Nat.zero_mul, Nat.zero_add] at h

/-- Only SCAN gates a PRG-RAM write: by EN = 0 or by WP = 1 (R119, D24). -/
theorem prgRamWritable_iff (s : State) : prgRamWritable s = true ↔
    ∀ r, s.regs = .scan r → r.prgRamProtect.getLsbD 7 = true ∧ r.prgRamProtect.getLsbD 6 = false := by
  unfold prgRamWritable
  cases s.regs with
  | swap r => simp
  | serial r => simp
  | scan r => simp [scanEN, scanWP]

/-- Settles O15: the gate of R119 decides, and the PRG-RAM window's offset is the distance from 0x6000. -/
theorem prgRamWriteFollowsItsGate : Obligations.PrgRamWriteFollowsItsGate := by
  refine fun a v s hlo hhi => ⟨fun hopen => ?_, fun r hr hclosed => ?_⟩
  · have hstore : winWrite s prgRamWin a.toNat v = { s with prgRam := Memory.write s.prgRam (a.toNat - 0x6000) v } := by
      rw [winWrite, offsetOf_prgRamWin s hlo hhi]
      rfl
    simp only [exec, execCwPrgRam, if_pos ((prgRamWritable_iff s).mpr hopen), hstore, returning]
  · have hgate : ¬ prgRamWritable s = true := fun hw => by
      obtain ⟨hen, hwp⟩ := (prgRamWritable_iff s).mp hw r hr
      rw [hen, hwp] at hclosed
      simp at hclosed
    exact if_neg hgate

/-! ### The window that covers a graphics address (R105, R106) -/

theorem winAt_mem_of_covered {layout : List Win} {a : Nat} (h : ∃ w ∈ layout, w.covers a = true) :
    winAt layout a ∈ layout := by
  obtain ⟨w, hw⟩ := Option.isSome_iff_exists.mp (List.find?_isSome.mpr h)
  rw [winAt, hw]
  exact List.mem_of_find?_eq_some hw

/-- Every CHR layout covers the whole graphics range (R105). -/
theorem chrLayout_covers (s : State) {a : Nat} (ha : a ≤ 0x1FFF) : ∃ w ∈ chrLayout s, w.covers a = true := by
  unfold chrLayout
  cases s.regs with
  | swap r => simp [swapChrLayout, Win.covers, size8K]; omega
  | serial r =>
    simp only [serialChrLayout]
    split
    · simp [Win.covers, size4K]; omega
    · simp [Win.covers, size8K]; omega
  | scan r =>
    simp only [scanChrLayout]
    split <;> simp [scanChr1K, scanChr2K, Win.covers, size1K, size2K] <;> omega

/-- The window that covers a graphics address shows the CHR region. -/
theorem chrWin_region_of_le (s : State) {a : Nat} (ha : a ≤ 0x1FFF) : (chrWin s a).region = .chr :=
  chrLayout_region s _ (winAt_mem_of_covered (chrLayout_covers s ha))

/-! ### Accesses of CHR and PRG-ROM (R103, R104) -/

theorem winRead_of_region (s : State) {w : Win} {R : Region} (hw : w.region = R) (a : Nat) :
    winRead s w a = Memory.read (regionContents s R) (offsetOf s w a) := by
  rw [winRead, regionRead, hw]

/-- A write to a CHR window stores in CHR-RAM (R104). -/
theorem winWrite_chrRam (s : State) {w : Win} (hw : w.region = .chr) (hram : s.header.chrBanks8 = 0) (a : Nat)
    (v : Byte) : winWrite s w a v = { s with chr := Memory.write s.chr (offsetOf s w a) v } := by
  have hwritable : regionWritable s .chr = true := decide_eq_true hram
  rw [winWrite, hw, regionWrite, if_pos hwritable]
  rfl

/-- A write to a CHR window leaves CHR-ROM as it is (R104). -/
theorem winWrite_chrRom (s : State) {w : Win} (hw : w.region = .chr) (hrom : s.header.chrBanks8 ≠ 0) (a : Nat)
    (v : Byte) : winWrite s w a v = s := by
  have hreadOnly : regionWritable s .chr = false := decide_eq_false hrom
  rw [winWrite, hw, regionWrite_readOnly s _ v hreadOnly]

/-- Settles O17: every PRG window shows PRG-ROM, and the window that covers a graphics address shows CHR. -/
theorem readsGoThroughTheCoveringWindow : Obligations.ReadsGoThroughTheCoveringWindow := by
  refine fun a s => ⟨fun _ => ?_, fun ha => ?_⟩
  · simp only [exec, execCrPrgRom, winRead_of_region s (prgWin_region s a.toNat), returning, regionContents]
  · simp only [exec, execPrChr, winRead_of_region s (chrWin_region_of_le s ha), returning, regionContents]

/-- Settles O18: the window that covers a graphics address shows CHR, which the header makes RAM or ROM. -/
theorem chrWriteStoresOnChrRamOnly : Obligations.ChrWriteStoresOnChrRamOnly := by
  intro a v s ha
  have hregion := chrWin_region_of_le s ha
  refine ⟨fun hram => ?_, fun hrom => ?_⟩
  · simp only [exec, execPwChr, winWrite_chrRam s hregion hram, returning]
  · simp only [exec, execPwChr, winWrite_chrRom s hregion hrom, returning]

end Sys2Proof.Machine
end

section
/-! PROOFS. SWAP and SERIAL have no counter: a tick keeps their registers, and their IRQ level is constantly false
(R144, R170). -/

namespace Sys2Proof.Machine

/-- Only a SCAN instance has registers that a tick changes (R144, R170). -/
theorem tickRegs_of_not_scan (p : Params) (level : Bool) {g : Regs} (h : ∀ r, g ≠ .scan r) :
    tickRegs p level g = g := by
  cases g with
  | swap r => rfl
  | serial r => rfl
  | scan r => exact absurd rfl (h r)

/-- The `irq` output of SWAP and SERIAL is constantly 0 (R274). -/
theorem irqLevel_of_not_scan {s : State} (h : ∀ r, s.regs ≠ .scan r) : irqLevel s = false := by
  unfold irqLevel
  split
  · rfl
  · rfl
  · next r hr => exact absurd hr (h r)

/-- A tick changes the registers and the result only (R246). -/
theorem exec_tick (level : Bool) (s : State) : exec (.tick level) s =
    .next { s with regs := tickRegs s.params level s.regs, result := .nothing } := rfl

/-- The IRQ query returns the level and changes nothing else (R247). -/
theorem exec_irqPending (s : State) : exec .irqPending s = .next { s with result := .flag (irqLevel s) } := rfl

/-- Settles O38: without a counter a tick keeps the registers, and the level that the query returns is false. -/
theorem tickDoesNothingWithoutACounter : Obligations.TickDoesNothingWithoutACounter := by
  intro s level hs
  have hlevel := irqLevel_of_not_scan hs
  refine ⟨?_, hlevel, ?_⟩
  · rw [exec_tick, tickRegs_of_not_scan s.params level hs]
  · rw [exec_irqPending, hlevel]

end Sys2Proof.Machine
end

section
/-! PROOFS. A SERIAL register write with bit 7 set abandons the sequence (R163). -/

namespace Sys2Proof.Machine

/-- Without the parameter an abandoned sequence leaves `control` as it is (R163, D17). -/
theorem serialAbandon_of_not_forced {p : Params} (hp : p.serialResetForcesPrgMode3 = false) (r : SerialRegs) :
    serialAbandon p r = { r with shiftRegister := 0, writeCount := 0 } := by
  rw [serialAbandon, hp, if_neg Bool.false_ne_true]

/-- Under the parameter an abandoned sequence also selects PRG mode 3 (R163, D17). -/
theorem serialAbandon_of_forced {p : Params} (hp : p.serialResetForcesPrgMode3 = true) (r : SerialRegs) :
    serialAbandon p r = { r with shiftRegister := 0, writeCount := 0, control := r.control ||| 0x0C#5 } := by
  rw [serialAbandon, hp, if_pos rfl]

/-- In a SERIAL state the write goes on at any operands, and changes the registers and the result only (R163). -/
theorem exec_cwSerialReset {s : State} {r : SerialRegs} (h : s.regs = .serial r) (a : Addr) (v : Byte) :
    exec (.cwSerialReset a v) s = .next (setRegs s (.serial (serialAbandon s.params r))) :=
  updateSerial_of_regs (serialAbandon s.params) h

/-- Settles O25: the registers that the write abandons the sequence to, for each value of the parameter. -/
theorem serialHighBitWriteAbandonsTheSequence : Obligations.SerialHighBitWriteAbandonsTheSequence := by
  refine fun s r a v hr => ⟨fun hkept => ?_, fun hforced => ?_⟩
  · rw [exec_cwSerialReset hr, serialAbandon_of_not_forced hkept, setRegs]
  · rw [exec_cwSerialReset hr, serialAbandon_of_forced hforced, setRegs]

end Sys2Proof.Machine
end

section
/-! PROOFS. The register writes of SCAN, each with the register or flag it sets (43_counter_irq.md R195 to R202). -/

namespace Sys2Proof.Machine

/-- The bank-data write loads register `bankSelect mod 8` (R34). -/
theorem scanTarget_val (r : ScanRegs) : (scanTarget r).val = r.bankSelect.toNat % 8 := by
  simp [scanTarget]

/-- `v[0]` as a bit (R88). -/
theorem mirroringBitOf_eq_ite (v : Byte) : mirroringBitOf v = if v.getLsbD 0 then 1#1 else 0#1 := by
  ext i hi
  obtain rfl : i = 0 := by omega
  cases hbit : v.getLsbD 0 <;> simp_all [mirroringBitOf]

/-- The bank registers after a bank-data write: the named one holds the byte, the other seven stay (R196). -/
theorem getElem_set_scanTarget (r : ScanRegs) (v : Byte) (k : Fin 8) :
    (r.bankRegisters.set (scanTarget r) v)[k] =
      if k.val = r.bankSelect.toNat % 8 then v else r.bankRegisters[k] := by
  simp only [Fin.getElem_fin, Vector.getElem_set, scanTarget_val, eq_comm]

/-- Settles O33: the two writes as updates of a SCAN state, and the register that the data write names. -/
theorem scanBankWritesSetTheirRegister : Obligations.ScanBankWritesSetTheirRegister :=
  fun _ r _ v hr =>
    ⟨updateScan_of_regs _ hr, _, updateScan_of_regs _ hr, getElem_set_scanTarget r v⟩

/-- Settles O34: the mirroring write stores the bit `v[0]`, the protect write the byte. -/
theorem scanMirroringAndProtectWritesSetTheirRegister :
    Obligations.ScanMirroringAndProtectWritesSetTheirRegister := by
  refine fun s r a v hr => ⟨?_, updateScan_of_regs _ hr⟩
  rw [← mirroringBitOf_eq_ite]
  exact updateScan_of_regs _ hr

/-- Settles O35: each write is an update of a SCAN state. -/
theorem scanIrqWritesSetTheirRegister : Obligations.ScanIrqWritesSetTheirRegister :=
  fun _ _ _ _ hr => ⟨updateScan_of_regs _ hr, updateScan_of_regs _ hr, updateScan_of_regs _ hr⟩

end Sys2Proof.Machine
end

section
/-! PROOFS. A tick of SCAN case by case (43_counter_irq.md R220 to R222): what the edge filter lets through, and the
counter clock it makes. -/

namespace Sys2Proof.Machine

/-- A tick of a SCAN instance puts its registers through the edge filter, and returns nothing (R246). -/
theorem exec_tick_of_scan {s : State} {r : ScanRegs} (h : s.regs = .scan r) (level : Bool) :
    exec (.tick level) s = .next { s with regs := .scan (tickScan s.params level r), result := .nothing } := by
  rw [exec_tick, h, tickRegs]

theorem clockReloads_eq_true_iff (r : ScanRegs) :
    clockReloads r = true ↔ r.irqCounter = 0#8 ∨ r.irqReload = true := by
  simp [clockReloads]

theorem clockReloads_eq_false {r : ScanRegs} (hcounter : r.irqCounter ≠ 0#8) (hreload : r.irqReload = false) :
    clockReloads r = false := by
  simp [clockReloads, hcounter, hreload]

/-- The counter decremented, as a number: it does not wrap above 0. -/
theorem byte_sub_one_eq_ofNat {c : Byte} (hc : c ≠ 0#8) : c - 1#8 = BitVec.ofNat 8 (c.toNat - 1) := by
  bv_omega

/-- The decrement that reaches 0 is the one from 1. -/
theorem byte_sub_one_eq_zero_iff (c : Byte) : c - 1#8 = 0#8 ↔ c.toNat = 1 := by
  bv_omega

/-- Settles O39: each case by the law of the tick, and a qualifying one by that of the counter clock it makes. -/
theorem scanTickFiltersAndClocks : Obligations.ScanTickFiltersAndClocks := by
  refine fun s r hr => ⟨?low, fun hrun => ?filtered, fun hrun hreload => ?reload,
    fun hrun hcounter hreload => ?decrement⟩
  case low => rw [exec_tick_of_scan hr, tickScan_low]
  case filtered => rw [exec_tick_of_scan hr, tickScan_filtered _ _ hrun]
  case reload =>
    rw [exec_tick_of_scan hr, tickScan_qualifying _ _ hrun,
      clockCounter_reload _ _ ((clockReloads_eq_true_iff r).2 hreload)]
  case decrement =>
    rw [exec_tick_of_scan hr, tickScan_qualifying _ _ hrun,
      clockCounter_decrement _ _ (clockReloads_eq_false hcounter hreload)]
    simp only [byte_sub_one_eq_zero_iff]
    rw [byte_sub_one_eq_ofNat hcounter]

end Sys2Proof.Machine
end

section
/-! PROOFS. What every transaction does to the interrupt registers of a SCAN instance, and so what can lower the IRQ
level (43_counter_irq.md R223). -/

namespace Sys2Proof.Machine

/-! ### The level -/

theorem irqLevel_of_scan {s : State} {r : ScanRegs} (h : s.regs = .scan r) : irqLevel s = r.irqPending := by
  rw [irqLevel, h]

/-- The level is up only in a SCAN instance with the pending flag set (R274). -/
theorem irqLevel_eq_true_iff (s : State) :
    irqLevel s = true ↔ ∃ r, s.regs = .scan r ∧ r.irqPending = true := by
  constructor
  · intro h
    cases hr : s.regs with
    | swap r => simp [irqLevel, hr] at h
    | serial r => simp [irqLevel, hr] at h
    | scan r => exact ⟨r, rfl, irqLevel_of_scan hr ▸ h⟩
  · rintro ⟨r, hr, hpending⟩
    rw [irqLevel_of_scan hr, hpending]

/-! ### The transactions of a SCAN instance -/

/-- A store through a window changes no register. -/
@[simp] theorem winWrite_regs (s : State) (w : Win) (a : Nat) (v : Byte) : (winWrite s w a v).regs = s.regs := by
  obtain ⟨-, -, hregs, -⟩ := regionWrite_fields s w.region (offsetOf s w a) v
  exact hregs

/-- The registers after a SCAN register write that went on. -/
theorem updateScan_next_regs {s t : State} {r : ScanRegs} {f : ScanRegs → ScanRegs} (hr : s.regs = .scan r)
    (h : updateScan s f = .next t) : t.regs = .scan (f r) := by
  rw [updateScan_of_regs f hr] at h
  cases h
  rfl

/-- What instruction `i` does to the interrupt registers, `r` before and `r'` after: a tick, the disable write,
IRQ_ACK, RESET and RESTORE set them as they do, any other leaves the counter, the low run and the pending flag. -/
inductive IrqEffect (i : Instr) (s : State) (r r' : ScanRegs) : Prop where
  | untouched (hcounter : r'.irqCounter = r.irqCounter) (hrun : r'.a12LowRun = r.a12LowRun)
      (hpending : r'.irqPending = r.irqPending)
  | ticked (level : Bool) (hi : i = .tick level) (h : r' = tickScan s.params level r)
  | disabled (a : Addr) (v : Byte) (hi : i = .cwScanIrqDisable a v)
      (h : r' = { r with irqEnable := false, irqPending := false })
  | acked (hi : i = .irqAck) (h : r' = { r with irqPending := false })
  | reset (hi : i = .reset) (h : r' = resetScanRegs s.params s.header)
  | restored (b : Blob) (hi : i = .restore b) (h : .scan r' = regsOfBlob .scan b)

/-- A transaction of a SCAN instance leaves a SCAN instance, and has one of the six effects. -/
theorem exec_irqEffect {i : Instr} {s t : State} {r : ScanRegs} (hr : s.regs = .scan r)
    (h : exec i s = .next t) : ∃ r', t.regs = .scan r' ∧ IrqEffect i s r r' := by
  have hv : s.variant = .scan := by rw [State.variant, hr, variant_scan]
  cases i with
  | refusedCrUnrouted | refusedCwUnrouted => cases h
  | crOpen | cwOpen | crPrgRom | prChr | irqPending | getMirroring | save =>
    cases h
    exact ⟨r, hr, .untouched rfl rfl rfl⟩
  | crPrgRam =>
    simp only [exec, execCrPrgRam] at h
    split at h <;> cases h <;> exact ⟨r, hr, .untouched rfl rfl rfl⟩
  | cwPrgRam =>
    simp only [exec, execCwPrgRam] at h
    split at h <;> cases h <;> exact ⟨r, by simp [hr], .untouched rfl rfl rfl⟩
  | pwChr =>
    cases h
    exact ⟨r, by simp [hr], .untouched rfl rfl rfl⟩
  | tick level =>
    rw [exec_tick_of_scan hr] at h
    cases h
    exact ⟨_, rfl, .ticked level rfl rfl⟩
  | reset =>
    cases h
    exact ⟨_, by rw [setRegs_regs, hv, resetRegs], .reset rfl rfl⟩
  | irqAck =>
    cases h
    exact ⟨_, by rw [setRegs_regs, hr, ackRegs], .acked rfl rfl⟩
  | restore b =>
    simp only [exec, execRestore, hv] at h
    split at h
    · cases h
      exact ⟨_, rfl, .restored b rfl rfl⟩
    · cases h
  | cwSwapBank =>
    obtain ⟨_, hswap, -⟩ := updateSwap_next h
    exact absurd (hr.symm.trans hswap) Regs.noConfusion
  | cwSerialReset | cwSerialCtrl | cwSerialChr0 | cwSerialChr1 | cwSerialPrg =>
    obtain ⟨_, hserial, -⟩ := updateSerial_next h
    exact absurd (hr.symm.trans hserial) Regs.noConfusion
  | cwScanIrqDisable a v => exact ⟨_, updateScan_next_regs hr h, .disabled a v rfl rfl⟩
  | cwScanBankSelect | cwScanBankData | cwScanMirroring | cwScanPrgRamProtect | cwScanIrqLatch | cwScanIrqReload
  | cwScanIrqEnable => exact ⟨_, updateScan_next_regs hr h, .untouched rfl rfl rfl⟩

/-! ### What the clock keeps -/

/-- A counter clock never clears the pending flag: raising is a level (R223). -/
theorem clockCounter_keeps_irqPending (p : Params) {r : ScanRegs} (h : r.irqPending = true) :
    (clockCounter p r).irqPending = true := by
  cases hreloads : clockReloads r with
  | true => simp [clockCounter_reload p r hreloads, h]
  | false => simp [clockCounter_decrement p r hreloads, h]

/-- Nor does a tick. -/
theorem tickScan_keeps_irqPending (p : Params) (level : Bool) {r : ScanRegs} (h : r.irqPending = true) :
    (tickScan p level r).irqPending = true := by
  unfold tickScan
  split
  · exact clockCounter_keeps_irqPending p h
  · exact h

/-- The count does not look at the enable (R222). -/
theorem clockCounter_irqCounter (p : Params) (r : ScanRegs) :
    (clockCounter p r).irqCounter = if clockReloads r then r.irqLatch else r.irqCounter - 1#8 := by
  cases hreloads : clockReloads r with
  | true => rw [clockCounter_reload p r hreloads, if_pos rfl]
  | false => rw [clockCounter_decrement p r hreloads, if_neg Bool.false_ne_true]

/-- A disabled counter counts as it would enabled (R223). -/
theorem tickScan_irqCounter_of_disabled (p : Params) (level : Bool) (r : ScanRegs) :
    (tickScan p level { r with irqEnable := false }).irqCounter = (tickScan p level r).irqCounter := by
  have hq : qualifies p level { r with irqEnable := false } = qualifies p level r := rfl
  simp only [tickScan, hq]
  split
  · rw [clockCounter_irqCounter, clockCounter_irqCounter]
    rfl
  · rfl

/-- The level falls only by IRQ_ACK, the disable write, RESET, or RESTORE of a blob whose pending bit is 0 (R223). -/
theorem irqLevel_falls {i : Instr} {s t : State} (h : exec i s = .next t) (hs : irqLevel s = true)
    (ht : irqLevel t = false) :
    i = .irqAck ∨ (∃ a v, i = .cwScanIrqDisable a v) ∨ i = .reset ∨
      ∃ b, i = .restore b ∧ (blobByte b 14).getLsbD 2 = false := by
  obtain ⟨r, hr, hpending⟩ := (irqLevel_eq_true_iff s).1 hs
  obtain ⟨r', hr', heffect⟩ := exec_irqEffect hr h
  rw [irqLevel_of_scan hr'] at ht
  cases heffect with
  | untouched _ _ hkept => simp [hkept, hpending] at ht
  | ticked level _ htick => simp [htick, tickScan_keeps_irqPending _ _ hpending] at ht
  | disabled a v hi => exact .inr (.inl ⟨a, v, hi⟩)
  | acked hi => exact .inl hi
  | reset hi => exact .inr (.inr (.inl hi))
  | restored b hi hblob =>
    obtain rfl := Regs.scan.inj hblob
    exact .inr (.inr (.inr ⟨b, hi, ht⟩))

/-- Settles O46: what lowers the level, and a tick with and without the enable. -/
theorem pendingIrqStaysUntilCleared : Obligations.PendingIrqStaysUntilCleared :=
  ⟨fun _ _ _ => irqLevel_falls, fun s r level hr =>
    ⟨_, _, _, _, exec_tick_of_scan hr level, rfl, exec_tick_of_scan rfl level, rfl,
      (tickScan_irqCounter_of_disabled s.params level r).symm⟩⟩

end Sys2Proof.Machine
end

section
/-! PROOFS. The IRQ query (44_host_calls.md R247). -/

namespace Sys2Proof.Machine

/-- Settles O43: the query returns the level, which is the pending flag of SCAN and false elsewhere. -/
theorem irqQueryReturnsTheLevel : Obligations.IrqQueryReturnsTheLevel := by
  refine fun s => ⟨fun r hscan => ?_, fun hother => ?_⟩
  · rw [exec_irqPending, irqLevel_of_scan hscan]
  · rw [exec_irqPending, irqLevel_of_not_scan hother]

end Sys2Proof.Machine
end

section
/-! PROOFS. The rows behind the two REFUSED rows are pairwise apart, so a word that one of them hits is decoded by it
(R84). -/

namespace Sys2Proof

/-- The test that no word in one variant matches both rows: on the bits that both masks keep, the patterns differ, or
the rows belong to different variants. -/
def Row.apart (r r' : Row) : Bool :=
  decide (r'.pattern &&& r.mask ≠ r.pattern &&& r'.mask) ||
    match r.variant, r'.variant with
    | some u, some u' => decide (u ≠ u')
    | _, _ => false

/-- No word of one variant is hit by both rows. -/
def Row.Disjoint (r r' : Row) : Prop := ∀ v w, r.hits v w = true → r'.hits v w = true → False

theorem Row.Disjoint.symm {r r' : Row} (h : r.Disjoint r') : r'.Disjoint r := fun v w hh hh' => h v w hh' hh

theorem Row.disjoint_of_apart {r r' : Row} (h : r.apart r' = true) : r.Disjoint r' := by
  intro v w hh hh'
  obtain ⟨hfit, hmatch⟩ := (r.hits_iff v w).1 hh
  obtain ⟨hfit', hmatch'⟩ := (r'.hits_iff v w).1 hh'
  have hcommon : r'.pattern &&& r.mask = r.pattern &&& r'.mask := by
    rw [← hmatch, ← hmatch', BitVec.and_assoc, BitVec.and_assoc, BitVec.and_comm r'.mask]
  unfold Row.apart at h
  simp only [hcommon, ne_eq, not_true_eq_false, decide_false, Bool.false_or] at h
  split at h
  · next u u' hu hu' =>
    rw [hu, rowFits, decide_eq_true_eq] at hfit
    rw [hu', rowFits, decide_eq_true_eq] at hfit'
    simp [hfit, hfit'] at h
  · cases h

theorem routedRows_disjoint : (opcodeTable.drop 2).Pairwise Row.Disjoint :=
  have h : (opcodeTable.drop 2).Pairwise fun r r' => r.apart r' = true := by decide
  h.imp Row.disjoint_of_apart

/-- Settles O4: two rows that both hit are not both behind the REFUSED rows. -/
theorem rowsOverlapOnlyAtRefusalRows : Obligations.RowsOverlapOnlyAtRefusalRows := by
  intro v w j k r r' hj hk hjk hh hh'
  by_contra hroute
  obtain ⟨hjlt, rfl⟩ := List.getElem?_eq_some_iff.1 hj
  obtain ⟨hklt, rfl⟩ := List.getElem?_eq_some_iff.1 hk
  have hdisjoint := List.pairwise_iff_getElem.1 routedRows_disjoint (j - 2) (k - 2)
    (by rw [List.length_drop]; omega) (by rw [List.length_drop]; omega) (by omega)
  simp only [List.getElem_drop, show 2 + (j - 2) = j by omega, show 2 + (k - 2) = k by omega] at hdisjoint
  exact hdisjoint v w hh hh'

end Sys2Proof
end

section
/-! PROOFS. A row hits exactly the words of its well-formed instructions, once the REFUSED rows are passed, so decoding
and encoding are inverse to each other (R81 to R86). -/

namespace Sys2Proof

/-! ### Words and operands, in numbers -/

/-- A word is the one composed of three fields when its fields are these and its reserved field is 0 (R81). -/
theorem wordOf_eq_iff {k : BitVec 4} {a : Addr} {d : Byte} {w : Word} : wordOf k a d = w ↔
    (kindOf w).toNat = k.toNat ∧ (zOf w).toNat = 0 ∧ (addrOf w).toNat = a.toNat ∧ (dataOf w).toNat = d.toNat := by
  constructor
  · rintro rfl
    simp
  · rintro ⟨hk, hz, ha, hd⟩
    rw [word_eq_wordOf (BitVec.eq_of_toNat_eq hz), BitVec.eq_of_toNat_eq hk, BitVec.eq_of_toNat_eq ha,
      BitVec.eq_of_toNat_eq hd]

theorem levelByte_bit0 (level : Bool) : (levelByte level)[0] = level := by cases level <;> rfl

theorem Addr.between_iff {a : Addr} {lo hi : Nat} : a.between lo hi = true ↔ lo ≤ a.toNat ∧ a.toNat ≤ hi := by
  simp [Addr.between]

/-- The data field of the TICK word that carries a data byte's bit 0 (R82). -/
theorem levelByte_toNat (d : Byte) : (levelByte (d.getLsbD 0)).toNat = d.toNat % 2 := by
  cases h : d.getLsbD 0 <;> simp_all [levelByte, BitVec.getLsbD, Nat.testBit_zero]

/-- Bit 7 of a data byte (R85). -/
theorem data_bit7 (d : Byte) : d.getLsbD 7 = decide (128 ≤ d.toNat) :=
  (BitVec.msb_eq_getLsbD_last d).symm.trans (BitVec.msb_eq_decide d)

/-- Bit 0 of an address (R85). -/
theorem addr_bit0 (a : Addr) : a.getLsbD 0 = decide (a.toNat % 2 = 1) := Nat.testBit_zero a.toNat

/-! ### The words of a row -/

/-- The words of a bus row, but those that the REFUSED rows take from it. -/
theorem busRows_hits_iff (v : Variant) (q : Request) : ∀ r ∈ busRows,
    (unroutedWord q.word → (r.build q).isUnrouted = true) →
    (r.hits v q.word = true ↔ (r.build q).wellFormed v = true ∧ (encode (r.build q)).word = q.word) := by
  simp only [busRows, List.forall_mem_cons, Row.hits_iff, rowFits, true_and, Instr.wellFormed, Instr.rowVariant,
    Instr.operandsOk, encode, wordOf_eq_iff, Instr.isUnrouted, unroutedWord, Addr.between_iff, Bool.true_and,
    hits_refusedCrUnrouted, hits_refusedCwUnrouted, hits_crOpen, hits_cwOpen, hits_crPrgRam, hits_cwPrgRam,
    hits_crPrgRom, hits_prChr, hits_pwChr, BitVec.toNat_ofNat, Bool.false_eq_true, imp_false, List.not_mem_nil,
    IsEmpty.forall_iff, implies_true, and_true]
  have := (addrOf q.word).isLt
  refine ⟨?_, ?_, ?_, ?_, ?_, ?_, ?_, ?_, ?_⟩
  all_goals omega


/-- The words of a host-call row. -/
theorem hostRows_hits_iff (v : Variant) (q : Request) : ∀ r ∈ hostRows,
    (r.hits v q.word = true ↔ (r.build q).wellFormed v = true ∧ (encode (r.build q)).word = q.word) := by
  simp only [hostRows, List.forall_mem_cons, Row.hits_iff, rowFits, true_and, Instr.wellFormed, Instr.rowVariant,
    Instr.operandsOk, encode, wordOf_eq_iff, Bool.true_and, hits_tick, hits_reset, hits_irqPending, hits_irqAck,
    hits_getMirroring, hits_save, hits_restore, BitVec.toNat_ofNat, levelByte_toNat, List.not_mem_nil,
    IsEmpty.forall_iff, implies_true, and_true]
  omega

/-- The words of a register row of one variant. -/
theorem registerRows_hits_iff (v : Variant) (q : Request) : ∀ r ∈ swapRows ++ serialRows ++ scanRows,
    (r.hits v q.word = true ↔ (r.build q).wellFormed v = true ∧ (encode (r.build q)).word = q.word) := by
  simp only [swapRows, serialRows, scanRows, List.cons_append, List.nil_append, List.forall_mem_cons, Row.hits_iff,
    Instr.wellFormed, Instr.rowVariant, Instr.operandsOk, encode, wordOf_eq_iff, Bool.and_eq_true, Bool.not_eq_true',
    Addr.between_iff, data_bit7, addr_bit0, decide_eq_true_eq, decide_eq_false_iff_not, hits_cwSwapBank,
    hits_cwSerialReset, hits_cwSerialCtrl, hits_cwSerialChr0, hits_cwSerialChr1, hits_cwSerialPrg,
    hits_cwScanBankSelect, hits_cwScanBankData, hits_cwScanMirroring, hits_cwScanPrgRamProtect, hits_cwScanIrqLatch,
    hits_cwScanIrqReload, hits_cwScanIrqDisable, hits_cwScanIrqEnable, BitVec.toNat_ofNat, and_assoc,
    and_congr_right_iff, List.not_mem_nil, IsEmpty.forall_iff, implies_true, and_true]
  have := (addrOf q.word).isLt
  refine ⟨?_, ?_, ?_, ?_, ?_, ?_, ?_, ?_, ?_, ?_, ?_, ?_, ?_, ?_⟩
  all_goals omega

/-- A row hits exactly the words of its well-formed instructions, but those that the REFUSED rows take from it. -/
theorem hits_iff_wellFormed {v : Variant} {q : Request} {r : Row} (hr : r ∈ opcodeTable)
    (hroute : unroutedWord q.word → (r.build q).isUnrouted = true) :
    r.hits v q.word = true ↔ (r.build q).wellFormed v = true ∧ (encode (r.build q)).word = q.word := by
  simp only [opcodeTable, List.append_assoc, List.mem_append] at hr
  obtain hr | hr | hr := hr
  · exact busRows_hits_iff v q r hr hroute
  · exact hostRows_hits_iff v q r hr
  · exact registerRows_hits_iff v q r (by simpa using hr)

/-! ### Decode after encode -/

/-- Every instruction is the one that some row builds from its word. -/
theorem exists_row_of_encode (i : Instr) : ∃ r ∈ opcodeTable, r.build (encode i) = i := by
  simp only [opcodeTable, busRows, hostRows, swapRows, serialRows, scanRows, List.cons_append, List.nil_append,
    List.exists_mem_cons_iff]
  cases i <;> simp [encode, levelByte_bit0]

/-- Only the REFUSED instructions are carried by the words of their rows. -/
theorem isUnrouted_of_encode {v : Variant} {i : Instr} (hi : i.wellFormed v = true)
    (hw : unroutedWord (encode i).word) : i.isUnrouted = true := by
  cases i
  all_goals
    simp [unroutedWord, encode, Instr.isUnrouted, Instr.wellFormed, Instr.operandsOk, Addr.between_iff] at hi hw ⊢
  all_goals omega

/-- The first two rows are the REFUSED rows. -/
theorem mem_routedRows {v : Variant} {q : Request} {r : Row} (hr : r ∈ opcodeTable) (hh : r.hits v q.word = true)
    (hw : ¬ unroutedWord q.word) : r ∈ opcodeTable.drop 2 := by
  simp only [opcodeTable, busRows, List.cons_append, List.mem_cons, List.drop_succ_cons, List.drop_zero] at hr ⊢
  obtain rfl | rfl | hr := hr
  · obtain ⟨hk, hz, hlo, hhi, -⟩ := (hits_refusedCrUnrouted _).1 ((Row.hits_iff _ _ _).1 hh).2
    exact absurd ⟨hz, by omega, hlo, hhi⟩ hw
  · obtain ⟨hk, hz, hlo, hhi⟩ := (hits_refusedCwUnrouted _).1 ((Row.hits_iff _ _ _).1 hh).2
    exact absurd ⟨hz, by omega, hlo, hhi⟩ hw
  · exact hr

/-- A word that the REFUSED rows leave alone is decoded by the one row that hits it (R84). -/
theorem decode_of_row {v : Variant} {q : Request} {r : Row} (hr : r ∈ opcodeTable) (hh : r.hits v q.word = true)
    (hw : ¬ unroutedWord q.word) : decode v q = .ok (r.build q) := by
  obtain ⟨i, hd⟩ := exists_decode_of_row ⟨r, hr, hh⟩
  obtain ⟨r', hr', hh', rfl⟩ := exists_row_of_decode hd
  have hsame : r = r' := by
    have : Std.Symm Row.Disjoint := ⟨fun _ _ => Row.Disjoint.symm⟩
    by_contra hne
    exact routedRows_disjoint.forall (mem_routedRows hr hh hw) (mem_routedRows hr' hh' hw) hne v q.word hh hh'
  rw [hd, hsame]

/-- The REFUSED rows stand first, so nothing takes their words from them (R84, R120). -/
theorem decode_encode_of_isUnrouted {v : Variant} {i : Instr} (hi : i.isUnrouted = true)
    (hw : unroutedWord (encode i).word) : decode v (encode i) = .ok i := by
  rw [decode_unroutedWord v hw]
  unfold Instr.isUnrouted at hi
  split at hi
  · simp [encode]
  · simp [encode]
  · cases hi

/-- Settles O1: the word of a well-formed instruction is hit by the instruction's row. -/
theorem decodeOfEncodeGivesTheInstruction : Obligations.DecodeOfEncodeGivesTheInstruction := by
  intro v i hi
  obtain ⟨r, hr, hbuild⟩ := exists_row_of_encode i
  have hh : r.hits v (encode i).word = true :=
    (hits_iff_wellFormed hr fun hw => by rw [hbuild]; exact isUnrouted_of_encode hi hw).2
      (by rw [hbuild]; exact ⟨hi, rfl⟩)
  by_cases hw : unroutedWord (encode i).word
  · exact decode_encode_of_isUnrouted (isUnrouted_of_encode hi hw) hw
  · rw [decode_of_row hr hh hw, hbuild]

/-- Settles O2: the row that decoded the word hits it, so its instruction is well formed and has that word. -/
theorem encodeOfDecodeGivesTheWord : Obligations.EncodeOfDecodeGivesTheWord := by
  intro v q i hd
  obtain ⟨r, hr, hh, rfl⟩ := exists_row_of_decode hd
  obtain ⟨hwf, hword⟩ := (hits_iff_wellFormed hr fun hw => isUnrouted_of_decode hw hd).1 hh
  exact ⟨hwf, hword, fun b hb => (restore_word q b r hr hh hb).2.symm⟩

end Sys2Proof
end

section
/-! PROOFS. What a transaction leaves of the regions, the cartridge and the registers, each read off the inversion of
`exec` (20_memory.md R66). -/

namespace Sys2Proof.Machine

/-! ### Regions -/

/-- A store changes no region that is not writable, and no other transaction changes any. -/
theorem exec_keeps_readOnly {i : Instr} {s t : State} (h : exec i s = .next t) {R : Region}
    (hR : regionWritable s R = false) : regionContents t R = regionContents s R := by
  cases exec_effect h with
  | result x h => simp [h]
  | draw h => simp [h]
  | store w a v hi h =>
    rw [h, regionContents_returning, winWrite, regionContents_regionWrite, if_neg]
    rintro ⟨rfl, hw⟩
    simp [hR] at hw
  | registers g hv h => simp [h]

/-- Only CW.PRGRAM and PW.CHR store. -/
theorem exec_keeps_regionRead {i : Instr} {s t : State} (h : exec i s = .next t) (hram : ∀ a v, i ≠ .cwPrgRam a v)
    (hchr : ∀ a v, i ≠ .pwChr a v) (R : Region) (o : Nat) : regionRead t R o = regionRead s R o := by
  cases exec_effect h with
  | result x h => simp [h]
  | draw h => simp [h]
  | store w a v hi h =>
    obtain ⟨hi, -⟩ | ⟨hi, -⟩ := hi
    · exact absurd hi (hram a v)
    · exact absurd hi (hchr a v)
  | registers g hv h => simp [h]

/-! ### What construction fixed -/

theorem winWrite_fixed (s : State) (w : Win) (a : Nat) (v : Byte) :
    (winWrite s w a v).params = s.params ∧ (winWrite s w a v).header = s.header := by
  obtain ⟨hparams, hheader, -⟩ := regionWrite_fields s w.region (offsetOf s w a) v
  exact ⟨hparams, hheader⟩

@[simp] theorem winWrite_params (s : State) (w : Win) (a : Nat) (v : Byte) :
    (winWrite s w a v).params = s.params := (winWrite_fixed s w a v).1

@[simp] theorem winWrite_header (s : State) (w : Win) (a : Nat) (v : Byte) :
    (winWrite s w a v).header = s.header := (winWrite_fixed s w a v).2

/-- No transaction changes the variant, the parameters or the header (R3, R7). -/
theorem exec_keeps_construction {i : Instr} {s t : State} (h : exec i s = .next t) :
    t.variant = s.variant ∧ t.params = s.params ∧ t.header = s.header := by
  cases exec_effect h with
  | result x h => simp [h]
  | draw h => simp [h]
  | store w a v hi h => simp [h, State.variant]
  | registers g hv h => simp [h, hv]

/-- Settles O59: PRG-ROM is read-only, and so is CHR when the header declares CHR banks. -/
theorem noTransactionChangesTheCartridge : Obligations.NoTransactionChangesTheCartridge := by
  intro i s t h
  obtain ⟨hvariant, hparams, hheader⟩ := exec_keeps_construction h
  exact ⟨hvariant, hparams, hheader, exec_keeps_readOnly h (R := .prgRom) rfl,
    fun hrom => exec_keeps_readOnly h (R := .chr) (decide_eq_false hrom), exec_keeps_script h⟩

/-! ### Registers -/

/-- What instruction `i` does to the registers of `s`, `g` after: it keeps them, takes them from the tick, the reset,
the acknowledge or a well-formed blob, or writes those of its own variant. -/
inductive RegEffect (i : Instr) (s : State) (g : Regs) : Prop where
  | kept (h : g = s.regs)
  | ticked (level : Bool) (hi : i = .tick level) (h : g = tickRegs s.params level s.regs)
  | reset (hi : i = .reset) (h : g = resetRegs s.params s.header s.variant)
  | acked (hi : i = .irqAck) (h : g = ackRegs s.regs)
  | restored (b : Blob) (hi : i = .restore b) (hb : blobWellFormed s.params s.variant b = true)
      (h : g = regsOfBlob s.variant b)
  | swap (r' : SwapRegs) (hi : i.rowVariant = some .swap) (h : g = .swap r')
  | serial (r r' : SerialRegs) (hi : i.rowVariant = some .serial) (hr : s.regs = .serial r) (h : g = .serial r')
      (hw : r' = serialAbandon s.params r ∨ ∃ a v, r' = serialBit a v r)
  | scan (r r' : ScanRegs) (hi : i.rowVariant = some .scan) (hr : s.regs = .scan r) (h : g = .scan r')
      (hrun : r'.a12LowRun = r.a12LowRun)

/-- A transaction that goes on has one of the effects on the registers. -/
theorem exec_regEffect {i : Instr} {s t : State} (h : exec i s = .next t) : RegEffect i s t.regs := by
  cases i with
  | refusedCrUnrouted | refusedCwUnrouted => cases h
  | crOpen | cwOpen | crPrgRom | prChr | irqPending | getMirroring | save =>
    cases h
    exact .kept rfl
  | crPrgRam =>
    simp only [exec, execCrPrgRam] at h
    split at h <;> cases h <;> exact .kept rfl
  | cwPrgRam =>
    simp only [exec, execCwPrgRam] at h
    split at h <;> cases h <;> exact .kept (by simp)
  | pwChr =>
    cases h
    exact .kept (by simp)
  | tick level =>
    cases h
    exact .ticked level rfl rfl
  | reset =>
    cases h
    exact .reset rfl rfl
  | irqAck =>
    cases h
    exact .acked rfl rfl
  | restore b =>
    simp only [exec, execRestore] at h
    split at h
    · next hb =>
      cases h
      exact .restored b rfl hb rfl
    · cases h
  | cwSwapBank =>
    obtain ⟨_, -, rfl⟩ := updateSwap_next h
    exact .swap _ rfl rfl
  | cwSerialReset =>
    obtain ⟨r, hr, rfl⟩ := updateSerial_next h
    exact .serial r _ rfl hr rfl (.inl rfl)
  | cwSerialCtrl a v | cwSerialChr0 a v | cwSerialChr1 a v | cwSerialPrg a v =>
    obtain ⟨r, hr, rfl⟩ := updateSerial_next h
    exact .serial r _ rfl hr rfl (.inr ⟨a, v, rfl⟩)
  | cwScanBankSelect | cwScanBankData | cwScanMirroring | cwScanPrgRamProtect | cwScanIrqLatch | cwScanIrqReload
  | cwScanIrqDisable | cwScanIrqEnable =>
    obtain ⟨r, hr, rfl⟩ := updateScan_next h
    exact .scan r _ rfl hr rfl rfl

/-- Settles O60: the two stores are the only ones, and every effect on the registers but `kept` names a transaction
that the statement sets apart. -/
theorem readsAndQueriesHaveNoSideEffect : Obligations.ReadsAndQueriesHaveNoSideEffect := by
  refine fun i s t h => ⟨exec_keeps_regionRead h, fun hrow htick hreset hack hrestore => ?_⟩
  cases exec_regEffect h with
  | kept h => exact h
  | ticked level hi => exact absurd hi (htick level)
  | reset hi => exact absurd hi hreset
  | acked hi => exact absurd hi hack
  | restored b hi => exact absurd hi (hrestore b)
  | swap _ hi => simp [hrow] at hi
  | serial _ _ hi => simp [hrow] at hi
  | scan _ _ hi => simp [hrow] at hi

/-- Settles O30: in a SERIAL instance a tick and an acknowledge keep the registers, and only SERIAL writes apply. -/
theorem onlySerialWritesTouchTheSequence : Obligations.OnlySerialWritesTouchTheSequence := by
  intro i s t r hr h hrow hreset hrestore
  obtain ⟨hvariant, -⟩ := exec_keeps_construction h
  cases exec_regEffect h with
  | kept h => rw [h, hr]
  | ticked level _ h => rw [h, hr, tickRegs]
  | reset hi => exact absurd hi hreset
  | acked _ h => rw [h, hr, ackRegs]
  | restored b hi => exact absurd hi (hrestore b)
  | swap r' _ h => simp [State.variant, h, hr] at hvariant
  | serial _ _ hi => exact absurd hi hrow
  | scan _ _ _ hscan => exact absurd (hr.symm.trans hscan) Regs.noConfusion

/-! ### The interrupt registers of SCAN -/

/-- Settles O47: of the six effects on the interrupt registers only a tick's, RESET's and RESTORE's touch the two. -/
theorem counterChangesOnlyAtTicksAndReset : Obligations.CounterChangesOnlyAtTicksAndReset := by
  intro i s t r r' h hr hr' hreset hrestore
  obtain ⟨_, hr'', heffect⟩ := exec_irqEffect hr h
  obtain rfl := Regs.scan.inj (hr'.symm.trans hr'')
  cases heffect with
  | untouched hcounter hrun => exact ⟨fun _ => hcounter, fun _ => hrun⟩
  | ticked level hi h =>
    refine ⟨fun hlow => ?_, fun hno => absurd hi (hno level)⟩
    obtain rfl : level = false := by
      cases level
      · rfl
      · exact absurd hi hlow
    rw [h, tickScan_low]
  | disabled a v hi h => simp [h]
  | acked hi h => simp [h]
  | reset hi => exact absurd hi hreset
  | restored b hi => exact absurd hi (hrestore b)

/-- A counter clock raises the pending flag only when the IRQ is enabled (R222). -/
theorem irqEnable_of_clockCounter_raises {p : Params} {r : ScanRegs} (hr : r.irqPending = false)
    (h : (clockCounter p r).irqPending = true) : r.irqEnable = true := by
  cases hreloads : clockReloads r with
  | true =>
    simp [clockCounter_reload p r hreloads, hr] at h
    exact h.1.2
  | false =>
    simp [clockCounter_decrement p r hreloads, hr] at h
    exact h.2

/-- A tick raises the pending flag only at a qualifying transition, and then by the clock (R220). -/
theorem tickScan_raises {p : Params} {level : Bool} {r : ScanRegs} (hr : r.irqPending = false)
    (h : (tickScan p level r).irqPending = true) :
    level = true ∧ p.a12Filter ≤ r.a12LowRun ∧ r.irqEnable = true := by
  cases level with
  | false => simp [tickScan_low, hr] at h
  | true =>
    by_cases hrun : p.a12Filter ≤ r.a12LowRun
    · rw [tickScan_qualifying p r hrun] at h
      exact ⟨rfl, hrun, irqEnable_of_clockCounter_raises hr h⟩
    · simp [tickScan_filtered p r (not_le.1 hrun), hr] at h

theorem exists_scan_of_variant {s : State} (h : s.variant = .scan) : ∃ r, s.regs = .scan r := by
  unfold State.variant at h
  cases hr : s.regs with
  | swap r => simp [hr] at h
  | serial r => simp [hr] at h
  | scan r => exact ⟨r, rfl⟩

/-- Settles O45: of the six effects on the interrupt registers only a tick's and RESTORE's can raise the flag. -/
theorem irqRisesOnlyAtACounterClock : Obligations.IrqRisesOnlyAtACounterClock := by
  intro i s t h hs ht
  obtain ⟨r', hr', hraised⟩ := (irqLevel_eq_true_iff t).1 ht
  obtain ⟨hvariant, -⟩ := exec_keeps_construction h
  obtain ⟨r, hr⟩ := exists_scan_of_variant (s := s) (by rw [← hvariant, State.variant, hr', variant_scan])
  obtain ⟨_, hr'', heffect⟩ := exec_irqEffect hr h
  obtain rfl := Regs.scan.inj (hr'.symm.trans hr'')
  rw [irqLevel_of_scan hr] at hs
  cases heffect with
  | untouched _ _ hpending => simp [hpending, hs] at hraised
  | ticked level hi h =>
    obtain ⟨rfl, hrun, henable⟩ := tickScan_raises hs (h ▸ hraised)
    exact .inl ⟨hi, r, hr, hrun, henable⟩
  | disabled a v _ h => simp [h] at hraised
  | acked _ h => simp [h] at hraised
  | reset _ h => simp [h, resetScanRegs] at hraised
  | restored b hi => exact .inr ⟨b, hi⟩

end Sys2Proof.Machine
end

section
/-! PROOFS. Every step keeps the instance well formed: what construction fixed stays, each effect on the registers keeps
their ranges, and a store keeps its region canonical and inside its size (R23, R29, R43). -/

namespace Sys2Proof.Machine

theorem wf_iff (s : State) : s.wf = true ↔ paramsWf s.params = true ∧ headerWf s.variant s.header = true ∧
    Regs.wf s.params s.regs = true ∧ ∀ R, regionWf s R = true := by
  have hregions : (∀ R, regionWf s R = true) ↔
      regionWf s .prgRom = true ∧ regionWf s .prgRam = true ∧ regionWf s .chr = true := by
    refine ⟨fun h => ⟨h _, h _, h _⟩, ?_⟩
    rintro ⟨hrom, hram, hchr⟩ (_ | _ | _)
    · exact hrom
    · exact hram
    · exact hchr
  simp only [State.wf, Bool.and_eq_true, and_assoc, hregions]

/-! ### Registers -/

theorem tickScan_a12LowRun_le (p : Params) (level : Bool) (r : ScanRegs) :
    (tickScan p level r).a12LowRun ≤ p.a12Filter := by
  cases level <;> simp [tickScan]

theorem serialBit_writeCount_le {r : SerialRegs} (a : Addr) (v : Byte) (h : r.writeCount ≤ 4) :
    (serialBit a v r).writeCount ≤ 4 := by
  unfold serialBit
  split
  · exact Nat.zero_le 4
  · simp only
    omega

theorem resetRegs_wf (p : Params) (h : Header) (v : Variant) : Regs.wf p (resetRegs p h v) = true := by
  cases v <;> simp [resetRegs, resetSerialRegs, resetScanRegs, Regs.wf]

/-- A blob that is well formed holds registers inside their ranges (R252). -/
theorem regsOfBlob_wf {p : Params} {v : Variant} {b : Blob} (h : blobWellFormed p v b = true) :
    Regs.wf p (regsOfBlob v b) = true := by
  cases v <;> simp_all [blobWellFormed, regsOfBlob, Regs.wf]

/-- Every effect on the registers keeps them inside their ranges (R29, R43). -/
theorem exec_keeps_regsWf {i : Instr} {s t : State} (h : exec i s = .next t) (hwf : Regs.wf s.params s.regs = true) :
    Regs.wf s.params t.regs = true := by
  cases exec_regEffect h with
  | kept h => rwa [h]
  | ticked level _ h =>
    rw [h]
    cases hr : s.regs with
    | swap r => rfl
    | serial r => simpa [hr, tickRegs] using hwf
    | scan r =>
      simp only [tickRegs, Regs.wf, decide_eq_true_eq]
      exact tickScan_a12LowRun_le s.params level r
  | reset _ h => rw [h, resetRegs_wf]
  | acked _ h =>
    rw [h]
    cases hr : s.regs with
    | swap r => rfl
    | serial r | scan r => simpa [hr, ackRegs, Regs.wf] using hwf
  | restored b _ hb h => exact h ▸ regsOfBlob_wf hb
  | swap r' _ h => rw [h, Regs.wf]
  | serial r r' _ hr h hw =>
    simp only [hr, h, Regs.wf, decide_eq_true_eq] at hwf ⊢
    obtain rfl | ⟨a, v, rfl⟩ := hw
    · exact Nat.zero_le 4
    · exact serialBit_writeCount_le a v hwf
  | scan r r' _ hr h hrun => simpa [hr, h, Regs.wf, hrun] using hwf

/-! ### Regions -/

theorem regionLen_pos {s : State} (h : headerWf s.variant s.header = true) (R : Region) : 0 < regionLen s R := by
  simp only [headerWf, Bool.and_eq_true, decide_eq_true_eq] at h
  cases R with
  | prgRom => exact Nat.mul_pos h.1 (by decide)
  | prgRam => exact Nat.zero_lt_succ _
  | chr =>
    simp only [regionLen, chrSize]
    split
    · decide
    · exact Nat.mul_pos (Nat.pos_of_ne_zero ‹_›) (by decide)

theorem regionLen_congr {s t : State} (h : t.header = s.header) (R : Region) : regionLen t R = regionLen s R := by
  cases R <;> simp [regionLen, h]

theorem regionWf_congr {s t : State} (hheader : t.header = s.header) {R : Region}
    (hcontents : regionContents t R = regionContents s R) : regionWf t R = regionWf s R := by
  rw [regionWf, regionWf, hcontents, regionLen_congr hheader]

/-- A store through a window keeps every region canonical and inside its size. -/
theorem winWrite_keeps_regionWf {s : State} (hheader : headerWf s.variant s.header = true)
    (hwf : ∀ R, regionWf s R = true) (w : Win) (a : Nat) (v : Byte) (R : Region) :
    regionWf (winWrite s w a v) R = true := by
  have hR := hwf R
  rw [regionWf, regionLen_congr (winWrite_header s w a v), winWrite, regionContents_regionWrite]
  split
  · next hstored =>
    obtain ⟨rfl, -⟩ := hstored
    simp only [regionWf, Bool.and_eq_true] at hR ⊢
    exact ⟨Memory.wf_write hR.1 _ v, Memory.below_write hR.2 (windowOffset_lt (regionLen_pos hheader _)) v⟩
  · exact hR

theorem exec_keeps_regionWf {i : Instr} {s t : State} (h : exec i s = .next t)
    (hheader : headerWf s.variant s.header = true) (hwf : ∀ R, regionWf s R = true) (R : Region) :
    regionWf t R = true := by
  cases exec_effect h with
  | result x h => rw [h, regionWf_congr (returning_header s x) (regionContents_returning ..), hwf]
  | draw h => rw [h, regionWf_congr (returningOpenBus_header s) (regionContents_returningOpenBus ..), hwf]
  | store w a v hi h =>
    rw [h, regionWf_congr (returning_header (winWrite s w a.toNat v) .nothing) (regionContents_returning ..)]
    exact winWrite_keeps_regionWf hheader hwf w a.toNat v R
  | registers g hv h => rw [h, regionWf_congr (setRegs_header s g) (regionContents_setRegs ..), hwf]

/-! ### The step -/

theorem exec_keeps_wf {i : Instr} {s t : State} (h : exec i s = .next t) (hwf : s.wf = true) : t.wf = true := by
  obtain ⟨hparams, hheader, hregs, hregions⟩ := (wf_iff s).1 hwf
  obtain ⟨hvariant, hp, hh⟩ := exec_keeps_construction h
  refine (wf_iff t).2 ⟨?_, ?_, ?_, exec_keeps_regionWf h hheader hregions⟩
  · rwa [hp]
  · rwa [hvariant, hh]
  · rw [hp]
    exact exec_keeps_regsWf h hregs

/-- A step that goes on is a transaction in the issued state (R22). -/
theorem exists_exec_of_step {s t : State} (h : step s = .next t) :
    ∃ i rest, exec i (issued s rest) = .next t := by
  unfold step at h
  split at h
  · cases h
  · next rest _ =>
    split at h
    · cases h
    · next i _ => exact ⟨i, rest, h⟩

theorem issued_wf (s : State) (rest : List Request) : (issued s rest).wf = s.wf := rfl

/-- Settles O57: the step is a transaction in the issued state, which is as well formed as the state. -/
theorem everyStepKeepsTheInstanceWellFormed : Obligations.EveryStepKeepsTheInstanceWellFormed := by
  intro s t hwf h
  obtain ⟨i, rest, hexec⟩ := exists_exec_of_step h
  exact exec_keeps_wf hexec (by rwa [issued_wf])

/-- Settles O58: every check of State.wf evaluates to true on the one instance. -/
theorem resetStateIsWellFormed : Obligations.ResetStateIsWellFormed := by
  unfold Obligations.ResetStateIsWellFormed
  decide

end Sys2Proof.Machine
end

section
/-! PROOFS. A store through a window reads back through it and leaves every other byte (40_bank_window.md R104, R115,
R118). -/

namespace Sys2Proof.Machine

/-! ### PRG-RAM (R114, R119) -/

/-- Only SCAN gates a PRG-RAM read, by EN = 0 (R119, D24). -/
theorem prgRamReadable_iff (s : State) : prgRamReadable s = true ↔
    ∀ r, s.regs = .scan r → r.prgRamProtect.getLsbD 7 = true := by
  unfold prgRamReadable
  cases s.regs with
  | swap r => simp
  | serial r => simp
  | scan r => simp [scanEN]

/-- Settles O14: the gate of R119 decides, and the PRG-RAM window's offset is the distance from 0x6000. -/
theorem prgRamReadFollowsItsGate : Obligations.PrgRamReadFollowsItsGate := by
  refine fun a s hlo hhi => ⟨fun hopen => ?_, fun r hr hclosed => ?_⟩
  · have hread : winRead s prgRamWin a.toNat = Memory.read s.prgRam (a.toNat - 0x6000) := by
      rw [winRead, offsetOf_prgRamWin s hlo hhi]
      rfl
    simp only [exec, execCrPrgRam, if_pos ((prgRamReadable_iff s).mpr hopen), hread, returning]
  · have hgate : ¬ prgRamReadable s = true := fun hread =>
      Bool.false_ne_true (hclosed.symm.trans ((prgRamReadable_iff s).mp hread r hr))
    exact if_neg hgate

/-- The state after CW.PRGRAM (R115, R119). -/
theorem exec_cwPrgRam_next {a : Addr} {v : Byte} {s t : State} (h : exec (.cwPrgRam a v) s = .next t) :
    t = returning (if prgRamWritable s then winWrite s prgRamWin a.toNat v else s) .nothing := by
  simp only [exec, execCwPrgRam] at h
  split at h
  · next hw => rw [if_pos hw, Host.Outcome.next.inj h]
  · next hw => rw [if_neg hw, Host.Outcome.next.inj h]

theorem regionContents_wf {s : State} (hwf : s.wf = true) (R : Region) : Memory.wf (regionContents s R) = true := by
  obtain ⟨-, -, -, hregions⟩ := (wf_iff s).1 hwf
  exact ((Bool.and_eq_true ..).mp (hregions R)).1

/-- Settles O16: the store is the region write at the address's distance from 0x6000. -/
theorem prgRamStoreChangesOneByte : Obligations.PrgRamStoreChangesOneByte := by
  intro a v s t hwf hlo hhi h
  rw [exec_cwPrgRam_next h]
  simp only [regionRead_returning, winWrite, offsetOf_prgRamWin s hlo hhi]
  refine ⟨fun hw => ?_, fun R o hother => ?_⟩
  · rw [if_pos hw]
    exact regionRead_regionWrite_same s _ v rfl (regionContents_wf hwf .prgRam)
  · split
    · next hw =>
      exact regionRead_regionWrite_other s v (hother.resolve_left (by simp [hw]))
    · rfl

/-! ### CHR (R116, R118) -/

/-- A store moves no window: the layouts are functions of the registers and the parameters (R44). -/
theorem chrWin_winWrite (s : State) (w : Win) (a b : Nat) (v : Byte) : chrWin (winWrite s w a v) b = chrWin s b := by
  simp only [chrWin, chrLayout, winWrite_regs, winWrite_params]

@[simp] theorem winRead_returning (s : State) (x : Result) (w : Win) (a : Nat) :
    winRead (returning s x) w a = winRead s w a := regionRead_returning s w.region x (offsetOf s w a)

theorem offsetOf_winWrite (s : State) (w w' : Win) (a b : Nat) (v : Byte) :
    offsetOf (winWrite s w a v) w' b = offsetOf s w' b := by
  rw [offsetOf, offsetOf, regionLen_congr (winWrite_header s w a v)]

/-- A byte stored through the window that covers the address, in a writable region, reads back through it. -/
theorem winRead_winWrite_chr {s : State} (hwf : s.wf = true) (hram : s.header.chrBanks8 = 0) {a : Nat}
    (ha : a ≤ 0x1FFF) (v : Byte) :
    winRead (winWrite s (chrWin s a) a v) (chrWin s a) a = v := by
  rw [winRead, offsetOf_winWrite, winWrite, chrWin_region_of_le s ha]
  exact regionRead_regionWrite_same s _ v (decide_eq_true hram) (regionContents_wf hwf .chr)

/-- A graphics read answers the byte that the covering window shows, and changes nothing else (R116). -/
theorem exec_prChr_of_winRead {s : State} {a : Addr} {b : Byte} (h : winRead s (chrWin s a.toNat) a.toNat = b) :
    exec (.prChr a) s = .next { s with result := .byte b } := by
  rw [← h]
  rfl

/-- Settles O19: the store reads back through its window, and is the region write at the window's offset. -/
theorem chrStoreReadsBackAndChangesOneByte : Obligations.ChrStoreReadsBackAndChangesOneByte := by
  intro a v s t hwf ha h
  obtain rfl : returning (winWrite s (chrWin s a.toNat) a.toNat v) .nothing = t := Host.Outcome.next.inj h
  have hregion := chrWin_region_of_le s ha
  refine ⟨fun hram => ?_, fun R o hother => ?_⟩
  · have hback : winRead (returning (winWrite s (chrWin s a.toNat) a.toNat v) .nothing)
        (chrWin (winWrite s (chrWin s a.toNat) a.toNat v) a.toNat) a.toNat = v := by
      rw [winRead_returning, chrWin_winWrite, winRead_winWrite_chr hwf hram ha]
    exact exec_prChr_of_winRead hback
  · rw [regionRead_returning]
    by_cases hrom : s.header.chrBanks8 = 0
    · rw [winWrite, hregion]
      exact regionRead_regionWrite_other s v (hother.resolve_left (not_not.2 hrom))
    · rw [winWrite_chrRom s hregion hrom]

end Sys2Proof.Machine
end

section
/-! PROOFS. The offset of an address in a window, and the layouts as contiguous sequences of aligned windows
(40_bank_window.md R101 to R106). -/

namespace Sys2Proof.Machine

/-! ### Offsets (R101, R102) -/

/-- A region shorter than the window repeats in it (R101). -/
theorem windowOffset_of_short {base size len : Nat} {b : Int} {a : Nat} (h : len < size) :
    windowOffset base size len b a = (a - base) % len := by
  have hbank : resolveBank b 1 = 0 := Nat.lt_one_iff.1 (resolveBank_lt b le_rfl)
  rw [windowOffset, bankCount, if_neg (Nat.not_le.2 h), hbank, Nat.zero_mul, Nat.zero_add]

/-- Settles O10: the offset of a bank that the region holds, and of a region shorter than the window. -/
theorem windowOffsetStaysInsideTheRegion : Obligations.WindowOffsetStaysInsideTheRegion :=
  fun _ _ _ _ _ hsize hlen hlo hhi =>
    ⟨windowOffset_lt hlen, fun hfit => windowOffset_of_bank hsize hfit rfl hlo hhi, windowOffset_of_short⟩

theorem toNat_and_fe (v : Byte) : (v &&& 0xFE#8).toNat = 2 * (v.toNat / 2) := by
  rw [(data_and_fe v _).1 rfl, Nat.mul_comm]

theorem toNat_or_one (v : Byte) : (v ||| 0x01#8).toNat = 2 * (v.toNat / 2) + 1 := by
  have hdiv : (v.toNat ||| 1) / 2 = v.toNat / 2 := by rw [Nat.or_div_two]; exact Nat.or_zero _
  have hmod : (v.toNat ||| 1) % 2 = 1 := Nat.or_mod_two_eq_one.2 (.inr rfl)
  have htoNat : (v ||| 0x01#8).toNat = v.toNat ||| 1 := BitVec.toNat_or ..
  omega

/-- Settles O12: with `m` banks of 2K the region has `2 * m` of 1K, and the remainder of a doubled number is doubled. -/
theorem twoKWindowShowsTwoOneKBanks : Obligations.TwoKWindowShowsTwoOneKBanks := by
  intro v len base x hlen hmod hx
  obtain ⟨m, rfl⟩ : ∃ m, len = 2048 * m := ⟨len / 2048, by omega⟩
  have hbanks2K : 2048 * m / 2048 = m := by omega
  have hbanks1K : 2048 * m / 1024 = 2 * m := by omega
  have heven : 2 * (v.toNat / 2) % (2 * m) = 2 * (v.toNat / 2 % m) := Nat.mul_mod_mul_left ..
  have hodd : (2 * (v.toNat / 2) + 1) % (2 * m) = 2 * (v.toNat / 2 % m) + 1 := by
    have := Nat.mod_lt (v.toNat / 2) (show 0 < m by omega)
    rw [Nat.add_mod_eq_add_mod_right 1 (heven.trans (Nat.mod_eq_of_lt (by omega)).symm), Nat.mod_eq_of_lt (by omega)]
  refine ⟨?_, ?_⟩
  · rw [windowOffset_ofNat _ (by decide) (by omega) (by omega) (by omega),
      windowOffset_ofNat _ (by decide) (by omega) (by omega) (by omega), toNat_and_fe, hbanks2K, hbanks1K, heven]
    omega
  · rw [windowOffset_ofNat _ (by decide) (by omega) (by omega) (by omega),
      windowOffset_ofNat _ (by decide) (by omega) (by omega) (by omega), toNat_or_one, hbanks2K, hbanks1K, hodd]
    omega

/-! ### Layouts (R105, R106) -/

/-- The size of a window is one of R105's and its base a multiple of the size. -/
def Win.aligned (w : Win) : Bool :=
  decide (w.base % w.size = 0) && decide (w.size ∈ [1024, 2048, 4096, 8192, 16384, 32768])

theorem aligned_iff {w : Win} : w.aligned = true ↔
    w.base % w.size = 0 ∧ w.size ∈ [1024, 2048, 4096, 8192, 16384, 32768] := by
  rw [Win.aligned, Bool.and_eq_true, decide_eq_true_eq, decide_eq_true_eq]

/-- The layout is a sequence of aligned windows, each beginning where the one before ends, from `lo` to `hi`. -/
def tiles : Nat → Nat → List Win → Bool
  | lo, hi, [] => decide (lo = hi)
  | lo, hi, w :: layout => decide (w.base = lo) && w.aligned && tiles (w.base + w.size) hi layout

theorem tiles_nil {lo hi : Nat} : tiles lo hi [] = true ↔ lo = hi := decide_eq_true_iff

theorem tiles_cons {lo hi : Nat} {w : Win} {layout : List Win} : tiles lo hi (w :: layout) = true ↔
    w.base = lo ∧ w.aligned = true ∧ tiles (w.base + w.size) hi layout = true := by
  simp [tiles, and_assoc]

theorem prgLayout_tiles (s : State) : tiles 0x8000 0x10000 (prgLayout s) = true := by
  unfold prgLayout swapPrgLayout serialPrgLayout scanPrgLayout size8K size16K size32K
  split
  · simp only [tiles_cons, tiles_nil, aligned_iff]
    decide
  · split
    all_goals
      simp only [tiles_cons, tiles_nil, aligned_iff]
      decide
  · simp only [tiles_cons, tiles_nil, aligned_iff]
    decide

theorem chrLayout_tiles (s : State) : tiles 0 0x2000 (chrLayout s) = true := by
  unfold chrLayout swapChrLayout serialChrLayout scanChrLayout scanChr1K scanChr2K size1K size2K size4K size8K
  split
  · simp only [tiles_cons, tiles_nil, aligned_iff]
    decide
  · split
    all_goals
      simp only [tiles_cons, tiles_nil, aligned_iff]
      decide
  · split
    all_goals
      simp only [List.cons_append, List.nil_append, tiles_cons, tiles_nil, aligned_iff]
      decide

theorem le_of_tiles {lo hi : Nat} {layout : List Win} (h : tiles lo hi layout = true) : lo ≤ hi := by
  induction layout generalizing lo with
  | nil => exact (tiles_nil.1 h).le
  | cons w layout ih =>
    obtain ⟨rfl, -, hrest⟩ := tiles_cons.1 h
    exact (Nat.le_add_right ..).trans (ih hrest)

/-- A window of a layout is aligned and inside the range. -/
theorem bounds_of_tiles {lo hi : Nat} {layout : List Win} (h : tiles lo hi layout = true) {w : Win}
    (hw : w ∈ layout) : lo ≤ w.base ∧ w.base + w.size ≤ hi ∧ w.aligned = true := by
  induction layout generalizing lo with
  | nil => cases hw
  | cons w' layout ih =>
    obtain ⟨rfl, haligned, hrest⟩ := tiles_cons.1 h
    obtain rfl | hw := List.mem_cons.1 hw
    · exact ⟨le_rfl, le_of_tiles hrest, haligned⟩
    · obtain ⟨hlo, hhi, hal⟩ := ih hrest hw
      exact ⟨(Nat.le_add_right ..).trans hlo, hhi, hal⟩

/-- A window that covers the address is the one that the layout selects: the windows do not overlap. -/
theorem winAt_eq_of_covers {lo hi : Nat} {layout : List Win} (h : tiles lo hi layout = true) {w : Win}
    (hw : w ∈ layout) {a : Nat} (h1 : w.base ≤ a) (h2 : a < w.base + w.size) : winAt layout a = w := by
  induction layout generalizing lo with
  | nil => cases hw
  | cons w' layout ih =>
    obtain ⟨-, -, hrest⟩ := tiles_cons.1 h
    obtain rfl | hw := List.mem_cons.1 hw
    · exact winAt_here h1 h2
    · obtain ⟨hlo, -⟩ := bounds_of_tiles hrest hw
      rw [winAt_later (.inr (hlo.trans h1)), ih hrest hw]

/-- Every address of the range is covered. -/
theorem exists_covers_of_tiles {lo hi : Nat} {layout : List Win} (h : tiles lo hi layout = true) {a : Nat}
    (h1 : lo ≤ a) (h2 : a < hi) : ∃ w ∈ layout, w.covers a = true := by
  induction layout generalizing lo with
  | nil =>
    have := tiles_nil.1 h
    omega
  | cons w layout ih =>
    obtain ⟨rfl, -, hrest⟩ := tiles_cons.1 h
    by_cases ha : a < w.base + w.size
    · exact ⟨w, List.mem_cons_self, by simp [Win.covers, h1, ha]⟩
    · obtain ⟨w', hw', hcovers⟩ := ih hrest (not_lt.1 ha)
      exact ⟨w', List.mem_cons_of_mem _ hw', hcovers⟩

theorem Win.covers_iff {w : Win} {a : Nat} : w.covers a = true ↔ w.base ≤ a ∧ a < w.base + w.size := by
  simp [Win.covers]

/-- The layout selects, of every address of the range, the one window that covers it. -/
theorem winAt_spec {lo hi : Nat} {layout : List Win} (h : tiles lo hi layout = true) {a : Nat} (h1 : lo ≤ a)
    (h2 : a < hi) : winAt layout a ∈ layout ∧ (winAt layout a).covers a = true ∧
      ∀ w ∈ layout, w.covers a = true → w = winAt layout a := by
  have hunique : ∀ w ∈ layout, w.covers a = true → winAt layout a = w := fun w hw hc =>
    winAt_eq_of_covers h hw (Win.covers_iff.1 hc).1 (Win.covers_iff.1 hc).2
  obtain ⟨w, hw, hc⟩ := exists_covers_of_tiles h h1 h2
  obtain rfl := hunique w hw hc
  exact ⟨hw, hc, fun w' hw' hc' => (hunique w' hw' hc').symm⟩

/-- Settles O11: both layouts are contiguous sequences of aligned windows. -/
theorem layoutsPartitionTheirBusRanges : Obligations.LayoutsPartitionTheirBusRanges := by
  refine fun s => ⟨fun a hlo hhi => ?_, fun a hhi => ?_, fun w hw => ?_, fun w hw => ?_⟩
  · exact winAt_spec (prgLayout_tiles s) hlo (by omega)
  · exact winAt_spec (chrLayout_tiles s) (Nat.zero_le a) (by omega)
  · obtain ⟨hlo, hhi, hal⟩ := bounds_of_tiles (prgLayout_tiles s) hw
    exact ⟨hlo, hhi, aligned_iff.1 hal⟩
  · obtain ⟨-, hhi, hal⟩ := bounds_of_tiles (chrLayout_tiles s) hw
    exact ⟨hhi, aligned_iff.1 hal⟩

end Sys2Proof.Machine
end

section
/-! PROOFS. The reads through the layouts of each variant: the window that covers the address, the bank it resolves to,
and so the offset (41_simple_swap.md, 42_shift_register.md and 43_counter_irq.md, their section on windows). -/

namespace Sys2Proof.Machine

/-! ### Bank counts (R101) -/

/-- CHR holds at least one 8K bank, RAM or ROM (R23). -/
theorem size8K_le_chrSize (h : Header) : 8192 ≤ chrSize h := by
  unfold chrSize
  split
  · exact le_rfl
  · exact Nat.le_mul_of_pos_left _ (Nat.pos_of_ne_zero ‹_›)

theorem prgRomSize_eq (h : Header) : prgRomSize h = h.prgBanks16 * 16384 := rfl

/-! ### A read through a window of the layout -/

theorem prgReadReturns_of_mem {s : State} {a : Addr} {base size o : Nat} {bank : Int} (h1 : base ≤ a.toNat)
    (h2 : a.toNat < base + size) (hw : ⟨base, size, .prgRom, bank⟩ ∈ prgLayout s)
    (ho : windowOffset base size (s.header.prgBanks16 * 16384) bank a.toNat = o) : Claims.prgReadReturns s a o := by
  have hwin : prgWin s a.toNat = ⟨base, size, .prgRom, bank⟩ := winAt_eq_of_covers (prgLayout_tiles s) hw h1 h2
  obtain ⟨hlo, -⟩ := bounds_of_tiles (prgLayout_tiles s) hw
  have hread := (readsGoThroughTheCoveringWindow a s).1 (hlo.trans h1)
  rwa [hwin, offsetOf, regionLen, prgRomSize_eq, ho] at hread

theorem chrReadReturns_of_mem {s : State} {a : Addr} {base size o : Nat} {bank : Int} (h1 : base ≤ a.toNat)
    (h2 : a.toNat < base + size) (hw : ⟨base, size, .chr, bank⟩ ∈ chrLayout s)
    (ho : windowOffset base size (chrSize s.header) bank a.toNat = o) : Claims.chrReadReturns s a o := by
  have hwin : chrWin s a.toNat = ⟨base, size, .chr, bank⟩ := winAt_eq_of_covers (chrLayout_tiles s) hw h1 h2
  obtain ⟨-, hhi, -⟩ := bounds_of_tiles (chrLayout_tiles s) hw
  have hread := (readsGoThroughTheCoveringWindow a s).2 (by simp only at hhi; omega)
  rwa [hwin, offsetOf, regionLen, ho] at hread

/-- A read through a 16K window on bank `k` of PRG-ROM. -/
theorem prgReadReturns_16K {s : State} {a : Addr} {base k : Nat} {bank : Int} (h1 : base ≤ a.toNat)
    (h2 : a.toNat < base + 16384) (hw : ⟨base, size16K, .prgRom, bank⟩ ∈ prgLayout s)
    (hn : 1 ≤ s.header.prgBanks16) (hk : resolveBank bank s.header.prgBanks16 = k) :
    Claims.prgReadReturns s a (k * 16384 + (a.toNat - base)) := by
  refine prgReadReturns_of_mem h1 h2 hw (windowOffset_of_bank (by decide) (Nat.le_mul_of_pos_left _ hn) ?_ h1 h2)
  rwa [Nat.mul_div_cancel _ (by decide)]

/-- A read through an 8K window on bank `k` of PRG-ROM. -/
theorem prgReadReturns_8K {s : State} {a : Addr} {base k : Nat} {bank : Int} (h1 : base ≤ a.toNat)
    (h2 : a.toNat < base + 8192) (hw : ⟨base, size8K, .prgRom, bank⟩ ∈ prgLayout s)
    (hn : 1 ≤ s.header.prgBanks16) (hk : resolveBank bank (2 * s.header.prgBanks16) = k) :
    Claims.prgReadReturns s a (k * 8192 + (a.toNat - base)) := by
  refine prgReadReturns_of_mem h1 h2 hw (windowOffset_of_bank (by decide) (by omega) ?_ h1 h2)
  rwa [show s.header.prgBanks16 * 16384 / 8192 = 2 * s.header.prgBanks16 by omega]

/-- A read through a window, of 8K or smaller, on bank `k` of CHR. -/
theorem chrReadReturns_of_bank {s : State} {a : Addr} {base size k o : Nat} {bank : Int} (h1 : base ≤ a.toNat)
    (h2 : a.toNat < base + size) (hw : ⟨base, size, .chr, bank⟩ ∈ chrLayout s) (hsize : size ≤ 8192)
    (hk : resolveBank bank (chrSize s.header / size) = k) (ho : k * size + (a.toNat - base) = o) :
    Claims.chrReadReturns s a o := by
  refine chrReadReturns_of_mem h1 h2 hw (Eq.trans ?_ ho)
  exact windowOffset_of_bank (by omega) (hsize.trans (size8K_le_chrSize _)) hk h1 h2

/-! ### SWAP (R140, R141, R142, R146) -/

/-- Settles O20: the window that covers the address, and the bank it resolves to. -/
theorem swapReadsThroughItsLayout : Obligations.SwapReadsThroughItsLayout := by
  intro s r a hr hn
  have hprg : prgLayout s = swapPrgLayout r := by rw [prgLayout, hr]
  have hchr : chrLayout s = swapChrLayout := by rw [chrLayout, hr]
  refine ⟨fun hlo hhi => ?_, fun hlo => ?_, fun hhi => ?_⟩
  · exact prgReadReturns_16K hlo (by omega) (by rw [hprg]; exact .head _) hn (resolveBank_ofNat ..)
  · exact prgReadReturns_16K hlo (by omega) (by rw [hprg]; exact .tail _ (.head _)) hn (resolveBank_last hn)
  · refine chrReadReturns_of_bank (Nat.zero_le _) (size := size8K) (by simp only [size8K]; omega)
      (by rw [hchr]; exact .head _) le_rfl (resolveBank_ofNatLit 0 _) ?_
    rw [Nat.zero_mod, Nat.zero_mul, Nat.zero_add, Nat.sub_zero]

/-- Settles O21: the write is an update of a SWAP state. -/
theorem swapBankWriteSetsPrgBank : Obligations.SwapBankWriteSetsPrgBank := fun _ _ _ _ hr => updateSwap_of_regs _ hr

/-- The window at 0xC000 is on the last bank in every SWAP state (R140). -/
theorem swap_prgWin_window1 {s : State} {r : SwapRegs} (hr : s.regs = .swap r) {a : Nat} (hlo : 0xC000 ≤ a)
    (hhi : a < 0x10000) : prgWin s a = { base := 0xC000, size := size16K, region := .prgRom, bank := -1 } :=
  winAt_eq_of_covers (prgLayout_tiles s) (by rw [prgLayout, hr]; exact .tail _ (.head _)) hlo hhi

theorem winRead_setRegs (s : State) (g : Regs) (w : Win) (a : Nat) : winRead (setRegs s g) w a = winRead s w a :=
  regionRead_setRegs s w.region g (offsetOf s w a)

/-- Settles O22: the write sets `prgBank`, which only the window at 0x8000 depends on. -/
theorem swapWriteMovesOnlyWindowZero : Obligations.SwapWriteMovesOnlyWindowZero := by
  intro s r a v hr hn
  refine ⟨setRegs s (.swap { prgBank := v }), swapBankWriteSetsPrgBank s r a v hr, swapBankWriteSetsPrgBank _ _ a v rfl,
    fun b hlo hhi => ?_, fun b hlo => ?_⟩
  · exact (swapReadsThroughItsLayout (setRegs s (.swap { prgBank := v })) _ b rfl hn).1 hlo hhi
  · rw [swap_prgWin_window1 (s := setRegs s (.swap { prgBank := v })) rfl hlo b.isLt, swap_prgWin_window1 hr hlo b.isLt]
    exact ⟨rfl, winRead_setRegs ..⟩

/-! ### SERIAL (R160, R161) -/

theorem serialP_toNat (r : SerialRegs) : (serialP r).toNat = r.control.toNat / 4 % 4 := by
  simp [serialP, BitVec.extractLsb'_toNat, Nat.shiftRight_eq_div_pow]

theorem serialBank_toNat (r : SerialRegs) : (serialBank r).toNat = r.prg.toNat % 16 := by
  simp [serialBank, BitVec.extractLsb'_toNat]

theorem prgLayout_serial_32K {s : State} {r : SerialRegs} (hr : s.regs = .serial r)
    (hmode : r.control.toNat / 4 % 4 ≤ 1) : prgLayout s =
      [{ base := 0x8000, size := size32K, region := .prgRom, bank := (r.prg.toNat % 16 / 2 : Nat) }] := by
  obtain h | h : (serialP r).toNat = 0 ∨ (serialP r).toNat = 1 := by rw [serialP_toNat]; omega
  · simp [prgLayout, hr, serialPrgLayout, h, serialBank_toNat]
  · simp [prgLayout, hr, serialPrgLayout, h, serialBank_toNat]

theorem prgLayout_serial_first {s : State} {r : SerialRegs} (hr : s.regs = .serial r)
    (hmode : r.control.toNat / 4 % 4 = 2) : prgLayout s =
      [{ base := 0x8000, size := size16K, region := .prgRom, bank := 0 },
        { base := 0xC000, size := size16K, region := .prgRom, bank := (r.prg.toNat % 16 : Nat) }] := by
  rw [← serialP_toNat] at hmode
  simp [prgLayout, hr, serialPrgLayout, hmode, serialBank_toNat]

theorem prgLayout_serial_last {s : State} {r : SerialRegs} (hr : s.regs = .serial r)
    (hmode : r.control.toNat / 4 % 4 = 3) : prgLayout s =
      [{ base := 0x8000, size := size16K, region := .prgRom, bank := (r.prg.toNat % 16 : Nat) },
        { base := 0xC000, size := size16K, region := .prgRom, bank := -1 }] := by
  rw [← serialP_toNat] at hmode
  simp [prgLayout, hr, serialPrgLayout, hmode, serialBank_toNat]

/-- Settles O23: the layout of each mode, the window that covers the address and the bank it resolves to. -/
theorem serialReadsThroughItsPrgLayout : Obligations.SerialReadsThroughItsPrgLayout := by
  intro s r a hr hn hlo n p mode
  have hhi : a.toNat < 0x8000 + size32K := a.isLt
  refine ⟨fun hmode h2 => ?_, fun hmode h1 => ?_, fun hmode ha => ?_, fun hmode ha => ?_, fun hmode ha => ?_,
    fun hmode ha => ?_⟩
  · refine prgReadReturns_of_mem hlo hhi (by rw [prgLayout_serial_32K hr hmode]; exact .head _) ?_
    have hcount : n * 16384 / size32K = n / 2 := by simp only [size32K]; omega
    exact windowOffset_of_bank (by decide) (by simp only [size32K]; omega)
      (by rw [hcount]; exact resolveBank_ofNat ..) hlo hhi
  · refine prgReadReturns_of_mem hlo hhi (by rw [prgLayout_serial_32K hr hmode]; exact .head _) ?_
    rw [windowOffset_of_short (by simp only [size32K]; omega), show s.header.prgBanks16 * 16384 = 16384 by omega]
  · have hread := prgReadReturns_16K hlo ha (by rw [prgLayout_serial_first hr hmode]; exact .head _) hn
      (resolveBank_ofNatLit 0 _)
    rwa [Nat.zero_mod, Nat.zero_mul, Nat.zero_add] at hread
  · exact prgReadReturns_16K ha hhi (by rw [prgLayout_serial_first hr hmode]; exact .tail _ (.head _)) hn
      (resolveBank_ofNat ..)
  · exact prgReadReturns_16K hlo ha (by rw [prgLayout_serial_last hr hmode]; exact .head _) hn (resolveBank_ofNat ..)
  · exact prgReadReturns_16K ha hhi (by rw [prgLayout_serial_last hr hmode]; exact .tail _ (.head _)) hn
      (resolveBank_last hn)

/-- Settles O24: by `control[4]` one window of 8K or two of 4K. -/
theorem serialReadsThroughItsChrLayout : Obligations.SerialReadsThroughItsChrLayout := by
  intro s r a hr ha len
  have hchr : chrLayout s = serialChrLayout r := by rw [chrLayout, hr]
  refine ⟨fun hmode => ?_, fun hmode hlo => ?_, fun hmode hhi => ?_⟩
  · have hlayout : chrLayout s = [⟨0x0000, size8K, .chr, (r.chr0.toNat / 2 : Nat)⟩] := by
      rw [hchr, serialChrLayout, serialC, if_neg (by rw [hmode]; decide)]
    exact chrReadReturns_of_bank (size := 8192) (Nat.zero_le _) (by omega) (by rw [hlayout]; exact .head _) le_rfl
      (resolveBank_ofNat ..) rfl
  all_goals
    have hlayout : chrLayout s = [⟨0x0000, size4K, .chr, r.chr0.toNat⟩, ⟨0x1000, size4K, .chr, r.chr1.toNat⟩] := by
      rw [hchr, serialChrLayout, serialC, if_pos hmode]
  · exact chrReadReturns_of_bank (size := 4096) (Nat.zero_le _) (by omega) (by rw [hlayout]; exact .head _)
      (by decide) (resolveBank_ofNat ..) rfl
  · exact chrReadReturns_of_bank (size := 4096) hhi (by omega) (by rw [hlayout]; exact .tail _ (.head _))
      (by decide) (resolveBank_ofNat ..) rfl

/-! ### SCAN (R191, R192) -/

/-- Settles O31: by `bankSelect[6]` the 8K window at 0x8000 is on R6 and that at 0xC000 on the second-last bank, or
the other way round. -/
theorem scanReadsThroughItsPrgLayout : Obligations.ScanReadsThroughItsPrgLayout := by
  intro s r a hr hn hlo n r6 r7
  have hprg : prgLayout s = scanPrgLayout r := by rw [prgLayout, hr]
  have hsecond : resolveBank (-2) n = n - 2 := resolveBank_secondLast (by omega)
  refine ⟨fun hhi => ?_, fun hlo hhi => ?_, fun hlo hhi => ?_, fun hlo => ?_⟩
  · have hread {k : Nat} := prgReadReturns_8K (k := k) hlo hhi (by rw [hprg]; exact .head _) hn
    split
    · next hpm => exact hread (by rw [scanPM, if_pos hpm, hsecond])
    · next hpm => exact hread (by rw [scanPM, if_neg hpm]; exact resolveBank_ofNat ..)
  · exact prgReadReturns_8K hlo hhi (by rw [hprg]; exact .tail _ (.head _)) hn (resolveBank_ofNat ..)
  · have hread {k : Nat} := prgReadReturns_8K (k := k) hlo hhi (by rw [hprg]; exact .tail _ (.tail _ (.head _))) hn
    split
    · next hpm => exact hread (by rw [scanPM, if_pos hpm]; exact resolveBank_ofNat ..)
    · next hpm => exact hread (by rw [scanPM, if_neg hpm, hsecond])
  · exact prgReadReturns_8K hlo a.isLt (by rw [hprg]; exact .tail _ (.tail _ (.tail _ (.head _)))) hn
      (resolveBank_last (by omega))

section scanChr
variable {s : State} {r : ScanRegs} {a : Addr} {base : Nat} (h1 : base ≤ a.toNat) (h2 : a.toNat < base + 0x1000)
include h1 h2

/-- The two 2K windows, wherever the layout has them. -/
theorem scan_chrRead_2K (hw : ∀ w ∈ scanChr2K r base, w ∈ chrLayout s) :
    Claims.chrReadReturns s a (Claims.scanChrOffset r (chrSize s.header) (a.toNat - base)) := by
  unfold Claims.scanChrOffset
  obtain hx | hx : a.toNat < base + 0x0800 ∨ base + 0x0800 ≤ a.toNat := by omega
  · rw [if_pos (by omega)]
    exact chrReadReturns_of_bank (size := 2048) h1 hx (hw _ (.head _)) (by decide) (resolveBank_ofNat ..) rfl
  · rw [if_neg (by omega), if_pos (by omega), Nat.sub_sub]
    exact chrReadReturns_of_bank (size := 2048) hx (by omega) (hw _ (.tail _ (.head _))) (by decide)
      (resolveBank_ofNat ..) rfl

/-- The four 1K windows, wherever the layout has them. -/
theorem scan_chrRead_1K (hw : ∀ w ∈ scanChr1K r base, w ∈ chrLayout s) :
    Claims.chrReadReturns s a (Claims.scanChrOffset r (chrSize s.header) (a.toNat - base + 0x1000)) := by
  unfold Claims.scanChrOffset
  rw [if_neg (by omega), if_neg (by omega)]
  obtain hx | hx | hx | hx : a.toNat < base + 0x0400 ∨ (base + 0x0400 ≤ a.toNat ∧ a.toNat < base + 0x0800) ∨
      (base + 0x0800 ≤ a.toNat ∧ a.toNat < base + 0x0C00) ∨ base + 0x0C00 ≤ a.toNat := by omega
  · rw [if_pos (by omega), show a.toNat - base + 0x1000 - 0x1000 = a.toNat - base by omega]
    exact chrReadReturns_of_bank (size := 1024) h1 hx (hw _ (.head _)) (by decide) (resolveBank_ofNat ..) rfl
  · rw [if_neg (by omega), if_pos (by omega),
      show a.toNat - base + 0x1000 - 0x1400 = a.toNat - (base + 0x0400) by omega]
    exact chrReadReturns_of_bank (size := 1024) hx.1 hx.2 (hw _ (.tail _ (.head _))) (by decide)
      (resolveBank_ofNat ..) rfl
  · rw [if_neg (by omega), if_neg (by omega), if_pos (by omega),
      show a.toNat - base + 0x1000 - 0x1800 = a.toNat - (base + 0x0800) by omega]
    exact chrReadReturns_of_bank (size := 1024) hx.1 hx.2 (hw _ (.tail _ (.tail _ (.head _)))) (by decide)
      (resolveBank_ofNat ..) rfl
  · rw [if_neg (by omega), if_neg (by omega), if_neg (by omega),
      show a.toNat - base + 0x1000 - 0x1C00 = a.toNat - (base + 0x0C00) by omega]
    exact chrReadReturns_of_bank (size := 1024) hx (by omega) (hw _ (.tail _ (.tail _ (.tail _ (.head _)))))
      (by decide) (resolveBank_ofNat ..) rfl

end scanChr

/-- Settles O32: the halves of the layout, the 2K windows and the 1K windows, by the CHR mode bit. -/
theorem scanReadsThroughItsChrLayout : Obligations.ScanReadsThroughItsChrLayout := by
  intro s r a hr ha mode
  have hmode : scanCM s.params r = mode := by
    simp only [scanCM, mode]
    split <;> rfl
  have hchr : chrLayout s = if mode then scanChr1K r 0x0000 ++ scanChr2K r 0x1000
      else scanChr2K r 0x0000 ++ scanChr1K r 0x1000 := by
    rw [chrLayout, hr, ← hmode]
    rfl
  refine ⟨fun hclear => ?_, fun hset hlo => ?_, fun hset hhi => ?_⟩
  · rw [hclear, if_neg Bool.false_ne_true] at hchr
    obtain hlo | hhi := Nat.lt_or_ge a.toNat 0x1000
    · exact scan_chrRead_2K (Nat.zero_le _) (by omega) fun w hw => hchr ▸ List.mem_append_left _ hw
    · have hread := scan_chrRead_1K hhi (by omega) fun w hw => hchr ▸ List.mem_append_right _ hw
      rwa [Nat.sub_add_cancel hhi] at hread
  · rw [hset, if_pos rfl] at hchr
    have hread := scan_chrRead_1K (Nat.zero_le _) (by omega) fun w hw => hchr ▸ List.mem_append_left _ hw
    rwa [Nat.sub_zero] at hread
  · rw [hset, if_pos rfl] at hchr
    exact scan_chrRead_2K hhi (by omega) fun w hw => hchr ▸ List.mem_append_right _ hw

end Sys2Proof.Machine
end

section
/-! PROOFS. A run of register writes and ticks, as a path of the registers: each word takes the registers to the next
ones, and the run changes nothing else but the script and its position (30_encoding.md R89, R90). -/

namespace Sys2Proof.Machine

/-- The word `q` takes the registers `g` to `g'`, with the parameters `p`: it decodes in their variant to a transaction
that sets them so in every state and returns nothing. -/
def WordSets (p : Params) (q : Request) (g g' : Regs) : Prop :=
  ∃ i, decode g.variant q = .ok i ∧ ∀ s : State, s.params = p → s.regs = g → exec i s = .next (setRegs s g')

/-- The words of the script, one after the other, take the registers `g` to `g'`. -/
inductive ScriptSets (p : Params) : Regs → List Request → Regs → Prop where
  | nil (g : Regs) : ScriptSets p g [] g
  | cons {g g' g'' : Regs} {q : Request} {qs : List Request} (h : WordSets p q g g') (hs : ScriptSets p g' qs g'') :
    ScriptSets p g (q :: qs) g''

theorem ScriptSets.append {p : Params} {g g' g'' : Regs} {qs qs' : List Request} (h : ScriptSets p g qs g')
    (h' : ScriptSets p g' qs' g'') : ScriptSets p g (qs ++ qs') g'' := by
  induction h with
  | nil => exact h'
  | cons hq _ ih => exact .cons hq (ih h')

theorem ScriptSets.single {p : Params} {g g' : Regs} {q : Request} (h : WordSets p q g g') :
    ScriptSets p g [q] g' := .cons h (.nil g')

theorem step_of_wordSets {s : State} {q : Request} {rest : List Request} {g' : Regs} (hp : s.pending = q :: rest)
    (h : WordSets s.params q s.regs g') : step s = .next (setRegs (issued s rest) g') := by
  obtain ⟨i, hd, hexec⟩ := h
  rw [step_decoded hp hd, hexec (issued s rest) rfl rfl]

/-- A run of no or more words, from a state in which the last transaction returned nothing. -/
theorem steps_of_scriptSets {s : State} {g g' : Regs} {qs : List Request} (h : ScriptSets s.params g qs g')
    (hg : s.regs = g) (hp : s.pending = qs) (hresult : s.result = .nothing) : steps qs.length s =
      .next { s with regs := g', pending := [], pos := s.pos + qs.length, result := .nothing } := by
  generalize hparams : s.params = p at h
  induction h generalizing s with
  | nil g =>
    have hs : s = { s with regs := g, pending := [], result := .nothing } := by rw [← hg, ← hp, ← hresult]
    subst hparams
    exact congrArg Host.Outcome.next hs
  | @cons g g₁ g₂ q qs hq _ ih =>
    have hrun := ih (s := setRegs (issued s qs) g₁) rfl rfl rfl hparams
    subst hg hparams
    rw [List.length_cons, steps, step_of_wordSets hp hq]
    simp only [hrun]
    rw [setRegs, issued, Nat.add_right_comm, Nat.add_assoc]

/-- The run of a script that takes the registers from one value to another changes nothing else. -/
theorem runScript_of_scriptSets {s : State} {g' : Regs} {qs : List Request} (h : ScriptSets s.params s.regs qs g')
    (hqs : qs ≠ []) : runScript s qs =
      .next { s with regs := g', pending := [], pos := s.pos + qs.length, result := .nothing } := by
  cases h with
  | nil => exact absurd rfl hqs
  | @cons _ g₁ _ q qs hq hs =>
    have hrun := steps_of_scriptSets (s := setRegs (issued (withScript s (q :: qs)) qs) g₁) hs rfl rfl rfl
    rw [runScript, List.length_cons, steps, step_of_wordSets (s := withScript s (q :: qs)) rfl hq]
    simp only [hrun]
    rw [setRegs, issued, withScript, Nat.add_right_comm, Nat.add_assoc]

/-- A word is a transaction of the registers' variant when it encodes a well-formed one. -/
theorem wordSets_of_encode {p : Params} {i : Instr} {g g' : Regs} (hwf : i.wellFormed g.variant = true)
    (h : ∀ s : State, s.params = p → s.regs = g → exec i s = .next (setRegs s g')) :
    WordSets p (encode i) g g' :=
  ⟨i, decodeOfEncodeGivesTheInstruction g.variant i hwf, h⟩

end Sys2Proof.Machine
end

section
/-! PROOFS. The serial sequences of SERIAL (42_shift_register.md R163 to R172): one bit write, the five writes of SLOAD,
and SRESET before them. -/

namespace Sys2Proof.Machine

/-! ### The shift register (R164) -/

theorem getLsbD_shiftIn (v : Byte) (x : BitVec 5) {i : Nat} (hi : i < 5) :
    (shiftIn v x).getLsbD i = if i < 4 then x.getLsbD (i + 1) else v.getLsbD 0 := by
  refine (BitVec.getLsbD_append (x := serialBitOf v) (y := x.extractLsb' 1 4) (i := i)).trans ?_
  split
  · next h => simp [h, Nat.add_comm]
  · obtain rfl : i = 4 := by omega
    simp [serialBitOf]

theorem shifted_eq_shiftIn (v : Byte) (x : BitVec 5) : Claims.shifted v x = shiftIn v x := by
  refine BitVec.eq_of_getLsbD_eq fun i hi => ?_
  rw [getLsbD_shiftIn v x hi, Claims.shifted, BitVec.getLsbD_or, BitVec.getLsbD_ushiftRight, Nat.add_comm 1]
  cases v.getLsbD 0
  all_goals
    interval_cases i
    all_goals simp

/-- Five bits shifted in are the value, whatever the register held. -/
theorem shiftIn_five (v x : BitVec 5) {b₀ b₁ b₂ b₃ b₄ : Byte} (h₀ : b₀.getLsbD 0 = v.getLsbD 0)
    (h₁ : b₁.getLsbD 0 = v.getLsbD 1) (h₂ : b₂.getLsbD 0 = v.getLsbD 2) (h₃ : b₃.getLsbD 0 = v.getLsbD 3)
    (h₄ : b₄.getLsbD 0 = v.getLsbD 4) : shiftIn b₄ (shiftIn b₃ (shiftIn b₂ (shiftIn b₁ (shiftIn b₀ x)))) = v := by
  refine BitVec.eq_of_getLsbD_eq fun i hi => ?_
  interval_cases i
  · simp only [getLsbD_shiftIn, Nat.reduceLT, Nat.reduceAdd, if_true, if_false, h₀]
  · simp only [getLsbD_shiftIn, Nat.reduceLT, Nat.reduceAdd, if_true, if_false, h₁]
  · simp only [getLsbD_shiftIn, Nat.reduceLT, Nat.reduceAdd, if_true, if_false, h₂]
  · simp only [getLsbD_shiftIn, Nat.reduceLT, Nat.reduceAdd, if_true, if_false, h₃]
  · simp only [getLsbD_shiftIn, Nat.reduceLT, if_false, h₄]

/-! ### One bit write (R164 to R169) -/

theorem serialBit_shifts {r : SerialRegs} (h : r.writeCount < 4) (a : Addr) (v : Byte) : serialBit a v r =
    { r with shiftRegister := shiftIn v r.shiftRegister, writeCount := r.writeCount + 1 } :=
  if_neg (by omega)

theorem serialBit_commits {r : SerialRegs} (h : r.writeCount = 4) (a : Addr) (v : Byte) : serialBit a v r =
    { serialCommit r (serialTarget a) (shiftIn v r.shiftRegister) with shiftRegister := 0, writeCount := 0 } :=
  if_pos (by omega)

/-- The register that an address selects is the one of its 8K block (R165, D14). -/
theorem serialCommit_eq_loaded (r : SerialRegs) {a : Addr} (ha : 0x8000 ≤ a.toNat) (v : BitVec 5) :
    { serialCommit r (serialTarget a) v with shiftRegister := 0, writeCount := 0 } = Claims.loaded r a v := by
  have htarget : (a.extractLsb' 13 2).toNat = a.toNat / 8192 % 4 := by
    simp [BitVec.extractLsb'_toNat, Nat.shiftRight_eq_div_pow]
  have := a.isLt
  obtain hk | hk | hk | hk : a.toNat / 8192 % 4 = 0 ∨ a.toNat / 8192 % 4 = 1 ∨ a.toNat / 8192 % 4 = 2 ∨
      a.toNat / 8192 % 4 = 3 := by omega
  all_goals rw [serialTarget, htarget, hk, Claims.loaded]
  · rw [if_pos (by omega)]
    rfl
  · rw [if_neg (by omega), if_pos (by omega)]
    rfl
  · rw [if_neg (by omega), if_neg (by omega), if_pos (by omega)]
    rfl
  · rw [if_neg (by omega), if_neg (by omega), if_neg (by omega)]
    rfl

/-- Settles O26: each of the four rows makes the same bit write. -/
theorem serialBitsOneToFourShift : Obligations.SerialBitsOneToFourShift := by
  intro s r a v hr hcount t
  have hwrite : updateSerial s (serialBit a v) = .next t := by
    rw [updateSerial_of_regs _ hr, serialBit_shifts hcount, ← shifted_eq_shiftIn]
    rfl
  exact ⟨hwrite, hwrite, hwrite, hwrite⟩

/-- The fifth bit write of any row loads the register its address selects. -/
theorem updateSerial_fifth {s : State} {r : SerialRegs} (hr : s.regs = .serial r) (hcount : r.writeCount = 4)
    {a : Addr} (ha : 0x8000 ≤ a.toNat) (v : Byte) : updateSerial s (serialBit a v) =
      .next (setRegs s (.serial (Claims.loaded r a (Claims.shifted v r.shiftRegister)))) := by
  rw [updateSerial_of_regs _ hr, serialBit_commits hcount, serialCommit_eq_loaded r ha, shifted_eq_shiftIn]

/-- Settles O27: each row's own addresses select its register. -/
theorem serialFifthBitCommits : Obligations.SerialFifthBitCommits := by
  intro s r a v hr hcount x
  refine ⟨fun ha => ?_, fun ha => ?_, fun ha => ?_, fun ha => ?_⟩
  all_goals obtain ⟨hlo, hhi⟩ := Addr.between_iff.1 ha
  · refine (updateSerial_fifth hr hcount (by omega) v).trans ?_
    rw [Claims.loaded, if_pos (by omega)]
    rfl
  · refine (updateSerial_fifth hr hcount (by omega) v).trans ?_
    rw [Claims.loaded, if_neg (by omega), if_pos (by omega)]
    rfl
  · refine (updateSerial_fifth hr hcount (by omega) v).trans ?_
    rw [Claims.loaded, if_neg (by omega), if_neg (by omega), if_pos (by omega)]
    rfl
  · refine (updateSerial_fifth hr hcount (by omega) v).trans ?_
    rw [Claims.loaded, if_neg (by omega), if_neg (by omega), if_neg (by omega)]
    rfl

/-! ### The words of a sequence (R88, R90) -/

theorem wordSets_serialReset {p : Params} (r : SerialRegs) {a : Addr} {v : Byte} (ha : 0x8000 ≤ a.toNat)
    (hv : v.getLsbD 7 = true) : WordSets p (scriptCW a v) (.serial r) (.serial (serialAbandon p r)) := by
  have hwf : (Instr.cwSerialReset a v).wellFormed .serial = true := by
    have := a.isLt
    simp only [Instr.wellFormed, Instr.rowVariant, rowFits, Instr.operandsOk, hv, Addr.between_iff, Bool.and_true,
      decide_true, Bool.true_and]
    omega
  exact wordSets_of_encode (g := .serial r) hwf fun s hp hr => hp ▸ exec_cwSerialReset hr a v

/-- The row of a bit write is the one of its 8K block; all four make the same bit write. -/
theorem wordSets_serialBit {p : Params} (r : SerialRegs) {a : Addr} {v : Byte} (ha : 0x8000 ≤ a.toNat)
    (hv : v.getLsbD 7 = false) : WordSets p (scriptCW a v) (.serial r) (.serial (serialBit a v r)) := by
  have hset {i : Instr} (hwf : i.wellFormed .serial = true) (hi : ∀ s, exec i s = updateSerial s (serialBit a v)) :
      WordSets p (encode i) (.serial r) (.serial (serialBit a v r)) :=
    wordSets_of_encode hwf fun s _ hr => (hi s).trans (updateSerial_of_regs _ hr)
  have hwf {i : Instr} {lo hi : Nat} (hrow : i.rowVariant = some .serial)
      (hok : i.operandsOk = (a.between lo hi && !v.getLsbD 7)) (h1 : lo ≤ a.toNat) (h2 : a.toNat ≤ hi) :
      i.wellFormed .serial = true := by
    rw [Instr.wellFormed, hrow, hok, hv, Bool.not_false, Bool.and_true, Addr.between_iff.2 ⟨h1, h2⟩]
    rfl
  obtain h | ⟨h1, h2⟩ | ⟨h1, h2⟩ | h : a.toNat ≤ 0x9FFF ∨ (0xA000 ≤ a.toNat ∧ a.toNat ≤ 0xBFFF) ∨
      (0xC000 ≤ a.toNat ∧ a.toNat ≤ 0xDFFF) ∨ 0xE000 ≤ a.toNat := by omega
  · exact hset (i := .cwSerialCtrl a v) (hwf rfl rfl ha h) fun _ => rfl
  · exact hset (i := .cwSerialChr0 a v) (hwf rfl rfl h1 h2) fun _ => rfl
  · exact hset (i := .cwSerialChr1 a v) (hwf rfl rfl h1 h2) fun _ => rfl
  · exact hset (i := .cwSerialPrg a v) (hwf rfl rfl h (Nat.le_of_lt_succ a.isLt)) fun _ => rfl

/-- The data byte of a SLOAD word carries one bit of the value, and bit 7 clear (R90). -/
def sloadByte (v : BitVec 5) (i : Nat) : Byte := if v.getLsbD i then 1#8 else 0#8

theorem sloadByte_bit0 (v : BitVec 5) (i : Nat) : (sloadByte v i).getLsbD 0 = v.getLsbD i := by
  unfold sloadByte
  cases v.getLsbD i <;> rfl

theorem sloadByte_bit7 (v : BitVec 5) (i : Nat) : (sloadByte v i).getLsbD 7 = false := by
  unfold sloadByte
  cases v.getLsbD i <;> rfl

theorem scriptSloadBit_eq (a : Addr) (v : BitVec 5) (i : Nat) : scriptSloadBit a v i = scriptCW a (sloadByte v i) := rfl

/-- SLOAD from `writeCount = 0` loads the value: four words shift, the fifth commits (R172). -/
theorem scriptSets_sload {p : Params} {r : SerialRegs} (hcount : r.writeCount = 0) {a : Addr} (ha : 0x8000 ≤ a.toNat)
    (v : BitVec 5) : ScriptSets p (.serial r) (scriptSLOAD a v) (.serial (Claims.loaded r a v)) := by
  have hword (r' : SerialRegs) (i : Nat) :
      WordSets p (scriptSloadBit a v i) (.serial r') (.serial (serialBit a (sloadByte v i) r')) :=
    scriptSloadBit_eq a v i ▸ wordSets_serialBit r' ha (sloadByte_bit7 v i)
  have hshift (i : Nat) (x : BitVec 5) {n : Nat} (hn : n < 4) :
      WordSets p (scriptSloadBit a v i) (.serial { r with shiftRegister := x, writeCount := n })
        (.serial { r with shiftRegister := shiftIn (sloadByte v i) x, writeCount := n + 1 }) := by
    have h := hword { r with shiftRegister := x, writeCount := n } i
    rwa [serialBit_shifts hn] at h
  have hcommit (x : BitVec 5) (hx : shiftIn (sloadByte v 4) x = v) :
      WordSets p (scriptSloadBit a v 4) (.serial { r with shiftRegister := x, writeCount := 4 })
        (.serial (Claims.loaded r a v)) := by
    have h := hword { r with shiftRegister := x, writeCount := 4 } 4
    rwa [serialBit_commits rfl, hx, serialCommit_eq_loaded _ ha] at h
  have hvalue := shiftIn_five v r.shiftRegister (sloadByte_bit0 v 0) (sloadByte_bit0 v 1) (sloadByte_bit0 v 2)
    (sloadByte_bit0 v 3) (sloadByte_bit0 v 4)
  have hstart : r = { r with shiftRegister := r.shiftRegister, writeCount := 0 } := by rw [← hcount]
  have hfirst := hshift 0 r.shiftRegister (Nat.zero_lt_succ 3)
  rw [← hstart] at hfirst
  exact .cons hfirst (.cons (hshift 1 _ (by decide)) (.cons (hshift 2 _ (by decide)) (.cons (hshift 3 _ (by decide))
    (.single (hcommit _ hvalue)))))

/-- Settles O28: the run of SLOAD sets the registers and nothing else. -/
theorem fiveSerialWritesLoadARegister : Obligations.FiveSerialWritesLoadARegister :=
  fun _ _ _ v hr hcount ha => runScript_of_scriptSets (hr ▸ scriptSets_sload hcount ha v) (List.cons_ne_nil _ _)

/-- Settles O29: SRESET leaves a state of `writeCount` 0, with the other registers as they were. -/
theorem resetThenLoadDropsAnAbandonedSequence : Obligations.ResetThenLoadDropsAnAbandonedSequence := by
  intro s r a b v hr hkept ha hb
  have hreset : WordSets s.params (scriptSRESET b) (.serial r)
      (.serial { r with shiftRegister := 0, writeCount := 0 }) :=
    serialAbandon_of_not_forced hkept r ▸ wordSets_serialReset r hb rfl
  exact runScript_of_scriptSets (hr ▸ .cons hreset (scriptSets_sload rfl ha v)) (List.cons_ne_nil _ _)

end Sys2Proof.Machine
end

section
/-! PROOFS. The runs of SCAN: the IRQ setup writes, A12CLK as one counter clock, and the counter over several of them
(43_counter_irq.md R199 to R202, R220 to R224). -/

namespace Sys2Proof.Machine

/-! ### The words of the setup (R199, R200, R202) -/

section setup
variable {p : Params} (r : ScanRegs)

theorem wordSets_irqLatch (v : Byte) :
    WordSets p (scriptCW 0xC000#16 v) (.scan r) (.scan { r with irqLatch := v }) :=
  wordSets_of_encode (i := .cwScanIrqLatch 0xC000#16 v) (g := .scan r) rfl fun _ _ hr => updateScan_of_regs _ hr

theorem wordSets_irqReload (v : Byte) :
    WordSets p (scriptCW 0xC001#16 v) (.scan r) (.scan { r with irqReload := true }) :=
  wordSets_of_encode (i := .cwScanIrqReload 0xC001#16 v) (g := .scan r) rfl fun _ _ hr => updateScan_of_regs _ hr

theorem wordSets_irqEnable (v : Byte) :
    WordSets p (scriptCW 0xE001#16 v) (.scan r) (.scan { r with irqEnable := true }) :=
  wordSets_of_encode (i := .cwScanIrqEnable 0xE001#16 v) (g := .scan r) rfl fun _ _ hr => updateScan_of_regs _ hr

end setup

theorem perm_three {α : Type} {qs : List α} {a b c : α} (h : qs.Perm [a, b, c]) :
    qs = [a, b, c] ∨ qs = [a, c, b] ∨ qs = [b, a, c] ∨ qs = [b, c, a] ∨ qs = [c, a, b] ∨ qs = [c, b, a] := by
  have hmem := List.mem_permutations.2 h
  simp [List.permutations] at hmem
  tauto

/-- Settles O37: the three words set three different fields, so each order sets the same three. -/
theorem irqSetupWritesCommute : Obligations.IrqSetupWritesCommute := by
  intro s r v x y qs hr hperm
  have latch (r) := wordSets_irqLatch (p := s.params) r v
  have reload (r) := wordSets_irqReload (p := s.params) r x
  have enable (r) := wordSets_irqEnable (p := s.params) r y
  have hsets : ScriptSets s.params (.scan r) qs
      (.scan { r with irqLatch := v, irqReload := true, irqEnable := true }) := by
    obtain rfl | rfl | rfl | rfl | rfl | rfl := perm_three hperm
    · exact .cons (latch _) (.cons (reload _) (.single (enable _)))
    · exact .cons (latch _) (.cons (enable _) (.single (reload _)))
    · exact .cons (reload _) (.cons (latch _) (.single (enable _)))
    · exact .cons (reload _) (.cons (enable _) (.single (latch _)))
    · exact .cons (enable _) (.cons (latch _) (.single (reload _)))
    · exact .cons (enable _) (.cons (reload _) (.single (latch _)))
  have hlen : qs.length = 3 := hperm.length_eq
  rw [runScript_of_scriptSets (hr ▸ hsets) (List.ne_nil_of_length_pos (by omega)), hlen]

/-! ### Ticks (R220, R221) -/

theorem scriptTick_eq_encode (level : Bool) : scriptTick level = encode (.tick level) := by cases level <;> rfl

theorem wordSets_tick (p : Params) (level : Bool) (r : ScanRegs) :
    WordSets p (scriptTick level) (.scan r) (.scan (tickScan p level r)) := by
  rw [scriptTick_eq_encode]
  exact wordSets_of_encode rfl fun s hp hr => hp ▸ exec_tick_of_scan hr level

/-- The counter clock does not look at the low run. -/
theorem clockCounter_with_a12LowRun (p : Params) (r : ScanRegs) (n : Nat) :
    clockCounter p { r with a12LowRun := n } = { clockCounter p r with a12LowRun := n } := by
  cases h : clockReloads r with
  | true => rw [clockCounter_reload p r h, clockCounter_reload p { r with a12LowRun := n } h]
  | false => rw [clockCounter_decrement p r h, clockCounter_decrement p { r with a12LowRun := n } h]

/-- `n` low ticks change the low run only, which is then at least `n`, up to the filter length. -/
theorem scriptSets_lowTicks (p : Params) (r : ScanRegs) (n : Nat) : ∃ run, min n p.a12Filter ≤ run ∧
    ScriptSets p (.scan r) (List.replicate n (scriptTick false)) (.scan { r with a12LowRun := run }) := by
  induction n with
  | zero => exact ⟨r.a12LowRun, by omega, .nil _⟩
  | succ n ih =>
    obtain ⟨run, hrun, hsets⟩ := ih
    refine ⟨min (run + 1) p.a12Filter, by omega, ?_⟩
    have htick := wordSets_tick p false { r with a12LowRun := run }
    rw [tickScan_low] at htick
    rw [List.replicate_succ']
    exact hsets.append (.single htick)

/-- A12CLK is one counter clock (R90, R221). -/
theorem scriptSets_A12CLK (p : Params) (r : ScanRegs) :
    ScriptSets p (.scan r) (scriptA12CLK p) (.scan { clockCounter p r with a12LowRun := 0 }) := by
  obtain ⟨run, hrun, hsets⟩ := scriptSets_lowTicks p r p.a12Filter
  have htick := wordSets_tick p true { r with a12LowRun := run }
  rw [tickScan_qualifying p _ (by simpa using hrun), clockCounter_with_a12LowRun] at htick
  exact hsets.append (.single htick)

/-- Settles O40: the run of the words of A12CLK sets the registers and nothing else. -/
theorem a12ClkIsOneCounterClock : Obligations.A12ClkIsOneCounterClock := by
  intro s r hr
  have hrun := runScript_of_scriptSets (s := s) (hr ▸ scriptSets_A12CLK s.params r) (by simp [scriptA12CLK])
  rwa [show (scriptA12CLK s.params).length = s.params.a12Filter + 1 by simp [scriptA12CLK]] at hrun

/-! ### The counter over several clocks (R224) -/

/-- The counter with latch `latch` after `k` clocks from the reload. -/
structure CountedDown (latch : Byte) (k : Nat) (r : ScanRegs) : Prop where
  counter : r.irqCounter.toNat = latch.toNat - k
  pending : r.irqPending = decide (k = latch.toNat)
  enable : r.irqEnable = true
  reload : r.irqReload = false
  latch : r.irqLatch = latch

/-- The first clock after the setup reloads the counter (R222). -/
theorem countedDown_zero (p : Params) {r : ScanRegs} {latch : Byte} (hpending : r.irqPending = false)
    (hlatch : 1 ≤ latch.toNat) : CountedDown latch 0
      { clockCounter p { r with irqLatch := latch, irqReload := true, irqEnable := true } with a12LowRun := 0 } := by
  rw [clockCounter_reload p _ (by simp [clockReloads])]
  have hne : latch ≠ 0#8 := by bv_omega
  refine ⟨rfl, ?_, rfl, rfl, rfl⟩
  simp [hpending, hne]
  omega

/-- Each further clock decrements it, and raises the flag when it reaches 0 (R222). -/
theorem CountedDown.clock (p : Params) {r : ScanRegs} {latch : Byte} {k : Nat} (h : CountedDown latch k r)
    (hk : k < latch.toNat) : CountedDown latch (k + 1) { clockCounter p r with a12LowRun := 0 } := by
  obtain ⟨hcounter, hpending, henable, hreload, hlatch⟩ := h
  have hne : r.irqCounter ≠ 0#8 := by bv_omega
  rw [clockCounter_decrement p r (clockReloads_eq_false hne hreload)]
  refine ⟨?_, ?_, henable, hreload, hlatch⟩
  · simp only [byte_sub_one_eq_ofNat hne, BitVec.toNat_ofNat, hcounter]
    omega
  · have hlast : (r.irqCounter.toNat = 1) = (k + 1 = latch.toNat) := propext (by omega)
    have hnotYet : decide (k = latch.toNat) = false := decide_eq_false (by omega)
    simp only [byte_sub_one_eq_zero_iff, hpending, henable, hlast, hnotYet, Bool.false_or, Bool.and_true]

/-- `k + 1` clocks after the setup (R224). -/
theorem scriptSets_clocks (p : Params) {r : ScanRegs} {latch : Byte} (hpending : r.irqPending = false)
    (hlatch : 1 ≤ latch.toNat) {k : Nat} (hk : k ≤ latch.toNat) : ∃ r', CountedDown latch k r' ∧
      ScriptSets p (.scan { r with irqLatch := latch, irqReload := true, irqEnable := true })
        (List.replicate (k + 1) (scriptA12CLK p)).flatten (.scan r') := by
  induction k with
  | zero => exact ⟨_, countedDown_zero p hpending hlatch, by simpa using scriptSets_A12CLK p _⟩
  | succ k ih =>
    obtain ⟨r', hcounted, hsets⟩ := ih (by omega)
    refine ⟨_, hcounted.clock p (by omega), ?_⟩
    rw [List.replicate_succ', List.flatten_append]
    exact hsets.append (by simpa using scriptSets_A12CLK p r')

/-- Settles O41: the run of the setup and the clocks ends with the counter counted down. -/
theorem programmedCounterRaisesAtTheLthClock : Obligations.ProgrammedCounterRaisesAtTheLthClock := by
  intro s r latch k hr hpending hlatch hk
  obtain ⟨r', hcounted, hclocks⟩ := scriptSets_clocks s.params hpending hlatch hk
  have hsets : ScriptSets s.params (.scan r) _ _ := .cons (wordSets_irqLatch r latch)
    (.cons (wordSets_irqReload _ 0x00#8) (.cons (wordSets_irqEnable _ 0x00#8) hclocks))
  exact ⟨_, r', runScript_of_scriptSets (hr ▸ hsets) (List.cons_ne_nil _ _), rfl, hcounted.counter, hcounted.pending,
    hcounted.enable, hcounted.reload, hcounted.latch⟩

/-! ### The zero latch (R224) -/

/-- Latch and counter 0, nothing pending. -/
structure Quiet (r : ScanRegs) : Prop where
  latch : r.irqLatch = 0#8
  counter : r.irqCounter = 0#8
  pending : r.irqPending = false

theorem Quiet.tick {p : Params} (hp : p.scanIrqOnReloadZero = false) {r : ScanRegs} (h : Quiet r) (level : Bool) :
    Quiet (tickScan p level r) := by
  obtain ⟨hlatch, hcounter, hpending⟩ := h
  unfold tickScan
  split
  · rw [clockCounter_reload p r ((clockReloads_eq_true_iff r).2 (.inl hcounter))]
    exact ⟨hlatch, hlatch, by simp [hpending, hp]⟩
  · exact ⟨hlatch, hcounter, hpending⟩

theorem scriptSets_ticks_quiet {p : Params} (hp : p.scanIrqOnReloadZero = false) {r : ScanRegs} (h : Quiet r)
    (levels : List Bool) : ∃ r', Quiet r' ∧ ScriptSets p (.scan r) (levels.map scriptTick) (.scan r') := by
  induction levels generalizing r with
  | nil => exact ⟨r, h, .nil _⟩
  | cons level levels ih =>
    obtain ⟨r', hquiet, hsets⟩ := ih (h.tick hp level)
    exact ⟨r', hquiet, .cons (wordSets_tick p level r) hsets⟩

/-- Settles O42: every tick leaves latch and counter 0 and nothing pending. -/
theorem zeroLatchNeverRaisesByDefault : Obligations.ZeroLatchNeverRaisesByDefault := by
  intro s r levels hr hp hlatch hcounter hpending
  obtain ⟨r', hquiet, hsets⟩ := scriptSets_ticks_quiet hp ⟨hlatch, hcounter, hpending⟩ levels
  cases levels with
  | nil => exact ⟨withScript s [], rfl, (irqLevel_of_scan (s := withScript s []) hr).trans hpending⟩
  | cons level levels =>
    exact ⟨_, runScript_of_scriptSets (hr ▸ hsets) (List.cons_ne_nil _ _), (irqLevel_of_scan rfl).trans hquiet.pending⟩

end Sys2Proof.Machine
end

section
/-! PROOFS. Single transactions read off their meanings: the open bus, the step, the acknowledge, the mirroring query
and RESET (44_host_calls.md, 70_reset_and_hazards.md). -/

namespace Sys2Proof.Machine

/-- Settles O3: each word's row is the first that hits it. -/
theorem writtenOutWordsDecode : Obligations.WrittenOutWordsDecode := by
  unfold Obligations.WrittenOutWordsDecode
  exact ⟨rfl, rfl, rfl, rfl, rfl, rfl, rfl, rfl, rfl, rfl⟩

/-- Settles O7: the issued state is the one with the request taken off. -/
theorem stepRunsTheDecodedInstruction : Obligations.StepRunsTheDecodedInstruction :=
  fun _ _ _ _ hp hd => step_decoded hp hd

/-- Settles O13: the two meanings are these states. -/
theorem openBusAccessesChangeNothing : Obligations.OpenBusAccessesChangeNothing := fun _ _ _ => ⟨rfl, rfl⟩

/-- Settles O36: the write is an update of a SCAN state. -/
theorem scanIrqDisableClearsEnableAndPending : Obligations.ScanIrqDisableClearsEnableAndPending :=
  fun _ _ _ _ hr => updateScan_of_regs _ hr

/-! ### The acknowledge (R248) -/

theorem exec_irqAck (s : State) : exec .irqAck s = .next { s with regs := ackRegs s.regs, result := .nothing } := rfl

/-- Only a SCAN instance has a flag to acknowledge (R248). -/
theorem ackRegs_of_not_scan {g : Regs} (h : ∀ r, g ≠ .scan r) : ackRegs g = g := by
  cases g with
  | swap r => rfl
  | serial r => rfl
  | scan r => exact absurd rfl (h r)

/-- Settles O44: the acknowledge of SCAN, and of the variants without a flag. -/
theorem irqAckClearsPendingOnly : Obligations.IrqAckClearsPendingOnly := by
  refine fun s => ⟨fun r hr => ?_, fun hother => ?_⟩
  · rw [exec_irqAck, hr, ackRegs]
  · rw [exec_irqAck, ackRegs_of_not_scan hother]

/-! ### The mirroring query (R249, R250) -/

theorem exec_getMirroring {s : State} {mode : MirroringMode} {code : Nat} (hmode : mirroringMode s = mode)
    (hcode : mirroringCode mode = BitVec.ofNat 3 code) :
    exec .getMirroring s = .next { s with result := .mirroring (BitVec.ofNat 3 code) } := by
  rw [← hcode, ← hmode]
  rfl

theorem serialM_toNat (r : SerialRegs) : (serialM r).toNat = r.control.toNat % 4 := by
  simp [serialM, BitVec.extractLsb'_toNat]

/-- The mode of a SCAN instance whose header does not say FourScreen (R193). -/
theorem scanMode_of_not_fourScreen {h : Header} (hh : h.mirroringFlag ≠ .fourScreen) (r : ScanRegs) :
    scanMode h r = if r.mirroring = 0#1 then .vertical else .horizontal := by
  unfold scanMode
  split
  · next hfour => exact absurd hfour hh
  · rfl
  · rfl

theorem mirroringMode_of_scan {s : State} {r : ScanRegs} (hr : s.regs = .scan r) :
    mirroringMode s = scanMode s.header r := by rw [mirroringMode, hr]

/-- Settles O48: the mode of each variant, and its code. -/
theorem mirroringQueryReturnsTheCode : Obligations.MirroringQueryReturnsTheCode := by
  rintro s code (⟨⟨r, hr⟩, rfl⟩ | ⟨r, hr, hcode⟩ | ⟨r, hr, hfour, rfl⟩ | ⟨r, hr, hnot, hcode⟩)
  · have hmode : mirroringMode s = headerMode s.header := by rw [mirroringMode, hr]
    refine exec_getMirroring hmode ?_
    unfold headerMode
    cases s.header.mirroringFlag <;> rfl
  · have hmode : mirroringMode s = serialMode r := by rw [mirroringMode, hr]
    refine exec_getMirroring hmode ?_
    unfold serialMode
    rw [serialM_toNat]
    simp only [List.mem_cons, Prod.mk.injEq, List.not_mem_nil, or_false] at hcode
    obtain ⟨hm, rfl⟩ | ⟨hm, rfl⟩ | ⟨hm, rfl⟩ | ⟨hm, rfl⟩ := hcode <;> rw [hm] <;> rfl
  · have hmode : mirroringMode s = .fourScreen := by
      rw [mirroringMode_of_scan hr]
      simp only [scanMode, hfour]
    exact exec_getMirroring hmode rfl
  · have hmode : mirroringMode s = if r.mirroring = 0#1 then .vertical else .horizontal := by
      rw [mirroringMode_of_scan hr, scanMode_of_not_fourScreen hnot]
    refine exec_getMirroring hmode ?_
    simp only [List.mem_cons, Prod.mk.injEq, List.not_mem_nil, or_false] at hcode
    obtain ⟨hm, rfl⟩ | ⟨hm, rfl⟩ := hcode <;> rw [hm] <;> rfl

/-! ### RESET (R290 to R295) -/

theorem exec_reset (s : State) :
    exec .reset s = .next (setRegs s (resetRegs s.params s.header s.variant)) := rfl

theorem resetMirroring_eq_ite (h : Header) :
    resetMirroring h = if h.mirroringFlag = .horizontal then 1#1 else 0#1 := by
  unfold resetMirroring
  cases h.mirroringFlag <;> rfl

/-- Settles O51: the reset values of the state's variant. -/
theorem resetTakesEveryRegisterToItsResetValue : Obligations.ResetTakesEveryRegisterToItsResetValue := by
  refine fun s => ⟨fun r hr => ?_, fun r hr => ?_, fun r hr => ?_⟩
  all_goals rw [exec_reset, State.variant, hr]
  · rfl
  · rfl
  · rw [← resetMirroring_eq_ite]
    rfl

/-- A second RESET finds the registers at their reset values (R291). -/
theorem exec_reset_of_resetRegs {s : State} (hregs : s.regs = resetRegs s.params s.header s.variant)
    (hresult : s.result = .nothing) : exec .reset s = .next s := by
  rw [exec_reset, ← hregs, setRegs, ← hresult]

/-- Settles O52: RESET touches the registers and the result only, and keeps the variant. -/
theorem resetKeepsRegionsAndIsIdempotent : Obligations.ResetKeepsRegionsAndIsIdempotent := by
  refine fun s => ⟨_, exec_reset s, exec_reset_of_resetRegs ?_ rfl, fun R o => regionRead_setRegs s R _ o⟩
  rw [setRegs_regs, setRegs_params, setRegs_header, setRegs_variant, resetRegs_variant]

end Sys2Proof.Machine
end

section
/-! PROOFS. Construction (44_host_calls.md R240 to R242, R296). -/

namespace Sys2Proof.Machine

/-! ### The checks (R240, R241) -/

theorem variantOfId_eq_none {id : Nat} (h : id ∉ [1, 2, 4]) : variantOfId id = none := by
  unfold variantOfId
  split
  · simp at h
  · simp at h
  · simp at h
  · rfl

/-- The known ids and their variants (D1). -/
theorem variantOfId_eq_some {id : Nat} (h : id ∈ [1, 2, 4]) :
    ∃ v, variantOfId id = some v ∧ (v = .swap ↔ id = 2) := by
  simp only [List.mem_cons, List.not_mem_nil, or_false] at h
  obtain rfl | rfl | rfl := h
  · exact ⟨.serial, rfl, by decide⟩
  · exact ⟨.swap, rfl, by decide⟩
  · exact ⟨.scan, rfl, by decide⟩

/-- `create` with a known id fails for the check of R241 that fails. -/
theorem create_of_failedCheck {p : Params} {id : Nat} {h : Header} {prg chr : List Byte} {d d' : Nat → Byte}
    {v : Variant} {k : Nat} (hv : variantOfId id = some v) (hk : failedCheck v h prg.length chr.length = some k) :
    create p id h prg chr d d' = .fault (.bankCountInconsistent k) := by
  simp only [create, hv, hk]

/-- Settles O49: an unknown id has no variant; for a known one the first check that fails. -/
theorem createRejectsInOrder : Obligations.CreateRejectsInOrder := by
  refine fun p id h prg chr d d' => ⟨fun hid => ?_, fun hid hbanks => ?_, fun hid hbanks => ?_,
    fun hid hbanks hswap hprg => ?_, fun hid hbanks hswap hprg hchr => ?_⟩
  · simp only [create, variantOfId_eq_none hid]
  · obtain ⟨v, hv, -⟩ := variantOfId_eq_some hid
    exact create_of_failedCheck hv (if_pos (by omega))
  · have hv : variantOfId id = some .swap := by rw [hid]; rfl
    exact create_of_failedCheck hv (by rw [failedCheck, size16K, size8K, if_neg (by omega), if_pos ⟨rfl, by omega⟩])
  all_goals
    obtain ⟨v, hv, hiff⟩ := variantOfId_eq_some hid
    have hcount : ¬ (v = .swap ∧ h.prgBanks16 < 2) := fun ⟨hs, hlt⟩ => by
      have := hswap (hiff.1 hs)
      omega
  · exact create_of_failedCheck hv (by rw [failedCheck, size16K, size8K, if_neg (by omega), if_neg hcount, if_pos hprg])
  · exact create_of_failedCheck hv
      (by rw [failedCheck, size16K, size8K, if_neg (by omega), if_neg hcount, if_neg (not_not.2 hprg), if_pos hchr])

/-! ### The fresh instance (R242, R296) -/

/-- The instance that `create` makes when its checks pass (R242). -/
def freshInstance (p : Params) (v : Variant) (h : Header) (prg chr : List Byte) (d d' : Nat → Byte) : State where
  params := p
  header := h
  regs := resetRegs p h v
  prgRom := Memory.ofBytes prg
  prgRam := Memory.ofDraw prgRamSize d
  chr := if h.chrBanks8 = 0 then Memory.ofDraw chrRamSize d' else Memory.ofBytes chr
  pending := []
  pos := 0
  result := .nothing
  draws := 0

theorem create_eq_freshInstance {p : Params} {id : Nat} {h : Header} {prg chr : List Byte} {d d' : Nat → Byte}
    {v : Variant} (hv : variantOfId id = some v) (hk : failedCheck v h prg.length chr.length = none) :
    create p id h prg chr d d' = .next (freshInstance p v h prg chr d d') := by
  simp only [create, hv, hk, freshInstance]

section fresh
variable {p : Params} {v : Variant} {h : Header} {prg chr : List Byte} {d d' : Nat → Byte}

theorem freshInstance_variant : (freshInstance p v h prg chr d d').variant = v := resetRegs_variant p h v

theorem below_ofDraw (n : Nat) (f : Nat → Byte) : Memory.below (Memory.ofDraw n f) n = true := by
  have h := Memory.below_ofBytes ((List.range n).map f)
  rwa [List.length_map, List.length_range] at h

theorem wf_ofDraw (n : Nat) (f : Nat → Byte) : Memory.wf (Memory.ofDraw n f) = true := Memory.wf_ofBytes _

theorem freshInstance_regionWf (hprg : prg.length = h.prgBanks16 * size16K) (hchr : chr.length = h.chrBanks8 * size8K)
    (R : Region) : regionWf (freshInstance p v h prg chr d d') R = true := by
  cases R
  all_goals simp only [regionWf, regionContents, regionLen, prgRomSize, freshInstance, Bool.and_eq_true]
  · rw [← hprg]
    exact ⟨Memory.wf_ofBytes prg, Memory.below_ofBytes prg⟩
  · exact ⟨wf_ofDraw prgRamSize d, below_ofDraw prgRamSize d⟩
  · by_cases hram : h.chrBanks8 = 0
    · rw [if_pos hram, chrSize, if_pos hram]
      exact ⟨wf_ofDraw chrRamSize d', below_ofDraw chrRamSize d'⟩
    · rw [if_neg hram, chrSize, if_neg hram, ← hchr]
      exact ⟨Memory.wf_ofBytes chr, Memory.below_ofBytes chr⟩

theorem freshInstance_wf (hp : paramsWf p = true) (hh : headerWf v h = true)
    (hprg : prg.length = h.prgBanks16 * size16K) (hchr : chr.length = h.chrBanks8 * size8K) :
    (freshInstance p v h prg chr d d').wf = true :=
  (wf_iff _).2 ⟨hp, freshInstance_variant ▸ hh, resetRegs_wf p h v, freshInstance_regionWf hprg hchr⟩

theorem exec_reset_freshInstance : exec .reset (freshInstance p v h prg chr d d') =
    .next (freshInstance p v h prg chr d d') :=
  exec_reset_of_resetRegs (by rw [freshInstance_variant]; rfl) rfl

end fresh

/-- Settles O50: the fresh instance holds the images and the draws, and its registers are the reset ones. -/
theorem createMakesTheResetInstance : Obligations.CreateMakesTheResetInstance := by
  intro p id v h prg chr d d' hp hid hbanks hswap hprg hchr
  have hv : variantOfId id = some v ∧ (v = .swap → id = 2) := by
    simp only [List.mem_cons, Prod.mk.injEq, List.not_mem_nil, or_false] at hid
    obtain ⟨rfl, rfl⟩ | ⟨rfl, rfl⟩ | ⟨rfl, rfl⟩ := hid
    · exact ⟨rfl, by decide⟩
    · exact ⟨rfl, fun _ => rfl⟩
    · exact ⟨rfl, by decide⟩
  obtain ⟨hvariant, hisSwap⟩ := hv
  have hcount : ¬ (v = .swap ∧ h.prgBanks16 < 2) := fun ⟨hs, hlt⟩ => by
    have := hswap (hisSwap hs)
    omega
  have hchecks : failedCheck v h prg.length chr.length = none := by
    rw [failedCheck, size16K, size8K, if_neg (by omega), if_neg hcount, if_neg (not_not.2 hprg),
      if_neg (not_not.2 hchr)]
  have hheader : headerWf v h = true := by
    simp only [headerWf, Bool.and_eq_true, Bool.or_eq_true, decide_eq_true_eq]
    exact ⟨hbanks, by by_contra hno; simp only [not_or, not_not, not_le] at hno; exact hcount hno⟩
  refine ⟨freshInstance p v h prg chr d d', create_eq_freshInstance hvariant hchecks,
    freshInstance_wf hp hheader hprg hchr, freshInstance_variant, rfl, rfl, exec_reset_freshInstance,
    fun o ho => ?_, fun o ho => ?_, fun o ho => ?_, fun hram o ho => ?_⟩
  all_goals simp only [regionRead, regionContents, freshInstance]
  · exact (Memory.read_ofBytes prg o).trans (List.getD_eq_getElem _ _ ho)
  · exact Memory.read_ofDraw prgRamSize d ho
  · have hrom : h.chrBanks8 ≠ 0 := fun h0 => by
      rw [hchr, h0] at ho
      omega
    rw [if_neg hrom]
    exact (Memory.read_ofBytes chr o).trans (List.getD_eq_getElem _ _ ho)
  · rw [if_pos hram]
    exact Memory.read_ofDraw chrRamSize d' ho

end Sys2Proof.Machine
end

section
/-! PROOFS. The snapshot (44_host_calls.md R251 to R253): the blob byte by byte, which blobs RESTORE takes, and the
round trip. -/

namespace Sys2Proof.Machine

/-! ### SAVE (R251) -/

theorem exec_save (s : State) : exec .save s = .next { s with result := .blob (blobOf s.regs) } := rfl

theorem flagsByte_eq_ofNat (r : ScanRegs) : flagsByte r =
    BitVec.ofNat 8 (r.irqEnable.toNat + 2 * r.irqReload.toNat + 4 * r.irqPending.toNat) := by
  unfold flagsByte
  cases r.irqEnable <;> cases r.irqReload <;> cases r.irqPending <;> rfl

/-- The eight bank registers, one by one. -/
theorem bankRegisters_eq (v : Vector Byte 8) : v = #v[v[0], v[1], v[2], v[3], v[4], v[5], v[6], v[7]] := by
  ext i hi
  interval_cases i <;> rfl

/-- Settles O53: the blob of each variant, with the narrower registers as bytes. -/
theorem saveReturnsTheBlob : Obligations.SaveReturnsTheBlob := by
  refine fun s => ⟨fun r hr => ?_, fun r hr => ?_, fun r hr => ?_⟩
  all_goals rw [exec_save, hr]
  · rfl
  · simp only [blobOf, variantTag, BitVec.ofNat_toNat]
    rfl
  · rw [← flagsByte_eq_ofNat, bankRegisters_eq r.bankRegisters]
    simp only [blobOf, variantTag, BitVec.ofNat_toNat]
    rfl

/-! ### RESTORE (R252) -/

theorem exec_restore_of_wf {s : State} {b : Blob} (h : blobWellFormed s.params s.variant b = true) :
    exec (.restore b) s = .next { s with regs := regsOfBlob s.variant b, result := .nothing } := if_pos h

theorem exec_restore_of_not_wf {s : State} {b : Blob} (h : ¬ blobWellFormed s.params s.variant b = true) :
    exec (.restore b) s = .refused .badBlob := if_neg h

/-- A blob is its bytes, one by one. -/
theorem eq_map_blobByte {b : Blob} {n : Nat} (h : b.length = n) : b = (List.range n).map (blobByte b) := by
  subst h
  refine List.ext_getElem (by simp) fun i hi _ => ?_
  simp [blobByte, hi]

theorem blobWellFormed_swap_iff {p : Params} {b : Blob} :
    blobWellFormed p .swap b = true ↔ ∃ x, b = [0x02#8, x] := by
  simp only [blobWellFormed, Bool.and_eq_true, decide_eq_true_eq]
  constructor
  · rintro ⟨hlen, htag⟩
    have hb := eq_map_blobByte hlen
    exact ⟨blobByte b 1, hb.trans (congrArg (· :: [blobByte b 1]) htag)⟩
  · rintro ⟨x, rfl⟩
    exact ⟨rfl, rfl⟩

/-- The ranges of the SERIAL fields of a blob (R252). -/
def serialBlobRanges (sh wc c p c0 c1 : Byte) : Prop :=
  sh.toNat < 32 ∧ wc.toNat ≤ 4 ∧ c.toNat < 32 ∧ p.toNat < 32 ∧ c0.toNat < 32 ∧ c1.toNat < 32

theorem blobWellFormed_serial_iff {p : Params} {b : Blob} : blobWellFormed p .serial b = true ↔
    ∃ sh wc c pr c0 c1, b = [0x01#8, sh, wc, c, pr, c0, c1] ∧ serialBlobRanges sh wc c pr c0 c1 := by
  simp only [blobWellFormed, Bool.and_eq_true, decide_eq_true_eq, and_assoc]
  constructor
  · rintro ⟨hlen, htag, hranges⟩
    have hb := eq_map_blobByte hlen
    exact ⟨_, _, _, _, _, _, hb.trans (congrArg (· :: _) htag), hranges⟩
  · rintro ⟨sh, wc, c, pr, c0, c1, rfl, hranges⟩
    exact ⟨rfl, rfl, hranges⟩

theorem extractLsb'_flags_eq_zero_iff (fl : Byte) : fl.extractLsb' 3 5 = 0#5 ↔ fl.toNat < 8 := by
  rw [BitVec.toNat_eq, BitVec.extractLsb'_toNat, Nat.shiftRight_eq_div_pow, BitVec.toNat_ofNat]
  have := fl.isLt
  omega

/-- The SCAN blob with the bank registers as a vector (R251). -/
def scanBlob (bs m pr la co fl lr : Byte) (banks : Vector Byte 8) : Blob :=
  [0x04#8, bs] ++ banks.toList ++ [m, pr, la, co, fl, lr]

theorem blobWellFormed_scanBlob {p : Params} {bs m pr la co fl lr : Byte} {banks : Vector Byte 8} :
    blobWellFormed p .scan (scanBlob bs m pr la co fl lr banks) = true ↔
      m.toNat ≤ 1 ∧ fl.toNat < 8 ∧ lr.toNat ≤ p.a12Filter := by
  rw [bankRegisters_eq banks, ← extractLsb'_flags_eq_zero_iff]
  simp only [blobWellFormed, Bool.and_eq_true, decide_eq_true_eq, and_assoc]
  exact ⟨fun ⟨_, _, hm, hfl, hlr⟩ => ⟨hm, hfl, hlr⟩, fun ⟨hm, hfl, hlr⟩ => ⟨rfl, rfl, hm, hfl, hlr⟩⟩

theorem exists_scanBlob {p : Params} {b : Blob} (h : blobWellFormed p .scan b = true) :
    ∃ bs m pr la co fl lr banks, b = scanBlob bs m pr la co fl lr banks := by
  simp only [blobWellFormed, Bool.and_eq_true, decide_eq_true_eq, and_assoc] at h
  obtain ⟨hlen, htag, -⟩ := h
  have hb := eq_map_blobByte hlen
  exact ⟨blobByte b 1, blobByte b 10, blobByte b 11, blobByte b 12, blobByte b 13, blobByte b 14, blobByte b 15,
    #v[blobByte b 2, blobByte b 3, blobByte b 4, blobByte b 5, blobByte b 6, blobByte b 7, blobByte b 8, blobByte b 9],
    hb.trans (congrArg (· :: _) htag)⟩

theorem regsOfBlob_scanBlob (bs m pr la co fl lr : Byte) (banks : Vector Byte 8) :
    regsOfBlob .scan (scanBlob bs m pr la co fl lr banks) = .scan
      { bankSelect := bs, bankRegisters := banks, mirroring := BitVec.ofNat 1 m.toNat, prgRamProtect := pr
        irqLatch := la, irqCounter := co, irqEnable := fl.getLsbD 0, irqReload := fl.getLsbD 1
        irqPending := fl.getLsbD 2, a12LowRun := lr.toNat } := by
  rw [bankRegisters_eq banks, BitVec.ofNat_toNat]
  rfl

/-- Settles O54: a blob is well formed exactly when it has the variant's bytes in their ranges. -/
theorem restoreLoadsOrRefusesSwapAndSerial : Obligations.RestoreLoadsOrRefusesSwapAndSerial := by
  refine fun s b => ⟨fun r hr => ?_, fun r hr => ?_⟩
  · have hv : s.variant = .swap := by rw [State.variant, hr, variant_swap]
    refine ⟨fun x hb => ?_, fun hno => exec_restore_of_not_wf fun h => ?_⟩
    · rw [exec_restore_of_wf (by rw [hv]; exact blobWellFormed_swap_iff.2 ⟨x, hb⟩), hv, hb]
      rfl
    · rw [hv] at h
      obtain ⟨x, hx⟩ := blobWellFormed_swap_iff.1 h
      exact hno x hx
  · have hv : s.variant = .serial := by rw [State.variant, hr, variant_serial]
    refine ⟨fun sh wc c p c0 c1 hb h1 h2 h3 h4 h5 h6 => ?_, fun hno => exec_restore_of_not_wf fun h => ?_⟩
    · rw [exec_restore_of_wf (by
        rw [hv]
        exact blobWellFormed_serial_iff.2 ⟨sh, wc, c, p, c0, c1, hb, h1, h2, h3, h4, h5, h6⟩), hv, hb]
      simp only [BitVec.ofNat_toNat]
      rfl
    · rw [hv] at h
      obtain ⟨sh, wc, c, p, c0, c1, hb, hranges⟩ := blobWellFormed_serial_iff.1 h
      exact hno sh wc c p c0 c1 hb hranges

/-- Settles O55: a blob is well formed exactly when it has the bytes of SCAN in their ranges. -/
theorem restoreLoadsOrRefusesScan : Obligations.RestoreLoadsOrRefusesScan := by
  intro s r b hr
  have hv : s.variant = .scan := by rw [State.variant, hr, variant_scan]
  refine ⟨fun bs m pr la co fl lr banks hb hm hfl hlr => ?_, fun hno => exec_restore_of_not_wf fun h => ?_⟩
  · obtain rfl : b = scanBlob bs m pr la co fl lr banks := hb
    rw [exec_restore_of_wf (by rw [hv]; exact blobWellFormed_scanBlob.2 ⟨hm, hfl, hlr⟩), hv, regsOfBlob_scanBlob]
  · rw [hv] at h
    obtain ⟨bs, m, pr, la, co, fl, lr, banks, rfl⟩ := exists_scanBlob h
    exact hno bs m pr la co fl lr banks rfl (blobWellFormed_scanBlob.1 h)

/-! ### The round trip (R253) -/

theorem setWidth_toNat_lt {n : Nat} (x : BitVec n) (m : Nat) : (x.setWidth m).toNat < 2 ^ n := by
  rw [BitVec.toNat_setWidth]
  exact (Nat.mod_le ..).trans_lt x.isLt

theorem setWidth_setWidth_of_le {n m : Nat} (x : BitVec n) (h : n ≤ m) : (x.setWidth m).setWidth n = x := by
  rw [BitVec.setWidth_setWidth_of_le x h, BitVec.setWidth_eq]

/-- The flags byte holds each flag in its bit, and nothing above them (R251). -/
theorem flagsByte_spec (r : ScanRegs) : (flagsByte r).toNat < 8 ∧ (flagsByte r).getLsbD 0 = r.irqEnable ∧
    (flagsByte r).getLsbD 1 = r.irqReload ∧ (flagsByte r).getLsbD 2 = r.irqPending := by
  rw [flagsByte_eq_ofNat]
  cases r.irqEnable <;> cases r.irqReload <;> cases r.irqPending <;> decide

theorem blobOf_scan (r : ScanRegs) : blobOf (.scan r) =
    scanBlob r.bankSelect (r.mirroring.setWidth 8) r.prgRamProtect r.irqLatch r.irqCounter (flagsByte r)
      (BitVec.ofNat 8 r.a12LowRun) r.bankRegisters := by
  have hbanks := congrArg Vector.toList (bankRegisters_eq r.bankRegisters)
  rw [scanBlob, hbanks]
  rfl

/-- The blob of registers inside their ranges is well formed, and holds every register (R253). -/
theorem blobOf_roundTrip {p : Params} {g : Regs} (hp : paramsWf p = true) (hg : Regs.wf p g = true) :
    blobWellFormed p g.variant (blobOf g) = true ∧ regsOfBlob g.variant (blobOf g) = g := by
  cases g with
  | swap r => exact ⟨blobWellFormed_swap_iff.2 ⟨_, rfl⟩, rfl⟩
  | serial r =>
    have hcount : (BitVec.ofNat 8 r.writeCount).toNat = r.writeCount := by
      rw [Regs.wf, decide_eq_true_eq] at hg
      exact Nat.mod_eq_of_lt (by omega)
    rw [Regs.wf, decide_eq_true_eq, ← hcount] at hg
    refine ⟨blobWellFormed_serial_iff.2 ⟨_, _, _, _, _, _, rfl, setWidth_toNat_lt _ 8, hg, setWidth_toNat_lt _ 8,
      setWidth_toNat_lt _ 8, setWidth_toNat_lt _ 8, setWidth_toNat_lt _ 8⟩, ?_⟩
    simp only [variant_serial, regsOfBlob, blobOf, blobByte, List.getD_cons_succ, List.getD_cons_zero, hcount,
      setWidth_setWidth_of_le _ (show 5 ≤ 8 by decide)]
  | scan r =>
    have hrun : (BitVec.ofNat 8 r.a12LowRun).toNat = r.a12LowRun := by
      simp only [Regs.wf, paramsWf, Bool.and_eq_true, decide_eq_true_eq] at hg hp
      exact Nat.mod_eq_of_lt (by omega)
    rw [Regs.wf, decide_eq_true_eq, ← hrun] at hg
    obtain ⟨hflags, henable, hreload, hpending⟩ := flagsByte_spec r
    rw [blobOf_scan, variant_scan, blobWellFormed_scanBlob, regsOfBlob_scanBlob]
    refine ⟨⟨Nat.le_of_lt_succ (setWidth_toNat_lt _ 8), hflags, hg⟩, ?_⟩
    rw [henable, hreload, hpending, hrun, BitVec.ofNat_toNat, setWidth_setWidth_of_le _ (show 1 ≤ 8 by decide)]

/-- Settles O56: the blob of `s` is well formed for `t`, and holds the registers of `s`. -/
theorem snapshotRoundTrip : Obligations.SnapshotRoundTrip := by
  intro s s' t b hwf hsave hb hv hp
  obtain ⟨hparams, -, hregs, -⟩ := (wf_iff s).1 hwf
  obtain ⟨hblob, hround⟩ := blobOf_roundTrip hparams hregs
  rw [exec_save] at hsave
  cases hsave
  cases hb
  rw [exec_restore_of_wf (by rw [hv, hp]; exact hblob), hv]
  exact congrArg (fun g => Host.Outcome.next { t with regs := g, result := .nothing }) hround

end Sys2Proof.Machine
end
